-- ==== Sys2Proof/Word.lean ====
section
/-! DEFINITION. Word.lean: the widths of the framer's registers, bytes and encodings (R9, R100, R313). -/

namespace Sys2Proof

/-- A register as the host port moves it, and a command word: 32 bits (R100, R309). -/
abbrev Word := BitVec 32

/-- The stored part of SEQ and ACK: 16 bits (R103). -/
abbrev Half := BitVec 16

/-- One byte of the frame buffer (R201). -/
abbrev Byte := BitVec 8

/-- One host transaction as a 64-bit record (R313). -/
abbrev Record := BitVec 64

end Sys2Proof
end

