-- ==== Sys2Proof/Config.lean ====
section
/-! DEFINITION. Config.lean: what is fixed when the block is built (R6, R702), and the one value the
spec leaves unspecified (I-1 of 93_implementation_defined.md). -/

namespace Sys2Proof

/-- `BYTE_ORDER` (R6, R205): how the multi-byte wire fields lie in the frame buffer. -/
inductive ByteOrder where
  /-- little-endian: the least significant byte at the lowest index -/
  | le
  /-- big-endian: the most significant byte at the lowest index -/
  | be
deriving DecidableEq, Repr

/-- The three build parameters of R6. They are never changed by a transaction or by reset (R702). -/
structure Params where
  /-- `N`, the size of the sequence space -/
  n : Nat
  /-- `CAP`, the size in bytes of the payload region -/
  cap : Nat
  /-- `BYTE_ORDER` -/
  order : ByteOrder
deriving DecidableEq, Repr

/-- The legal values of the parameters (R6, D3, D4). -/
abbrev Params.wf (p : Params) : Prop :=
  (2 ≤ p.n ∧ p.n ≤ 65536) ∧ (1 ≤ p.cap ∧ p.cap ≤ 65535)

/-- The parameter values R6 gives for the spec's own vectors: `N = 25601`, `CAP = 512`, little-endian.
DESIGN CHOICE (log 1): `State.reset` has to name one block, and it names this one. -/
def Params.vectors : Params := { n := 25601, cap := 512, order := .le }

/-- FREE VALUE (I-1, R700; log 2): what frame-buffer byte `i` holds after power-up number `draw` until
something writes it. Nothing constrains it; it is fixed per byte from one reset to the next. -/
opaque Config.fbPowerUp : (draw : Nat) → (i : Nat) → Byte

end Sys2Proof
end

