-- ==== Sys2Proof/Syntax.lean ====
section
/-! DEFINITION. Syntax.lean: the instructions of spec/opcode_table.json (seven commands, four host
transactions), the register names, the encodings' outer shapes, and the host-program lines (R310, R313,
R314, R315). -/

namespace Sys2Proof

/-- One constructor per row of spec/opcode_table.json. The commands carry no field: every operand comes
from a register (R307). `off` is the record's OFF field and `data` its DATA field (R313). -/
inductive Instr where
  /-- BUILD: construct a header in FB from the header registers (R402). -/
  | build
  /-- PARSE: decode the header in FB into the header registers (R403). -/
  | parse
  /-- SEQ_ADD: modular addition (R452). -/
  | seqAdd
  /-- SEQ_SUB: modular difference (R453). -/
  | seqSub
  /-- SEQ_CMP: equality and circular order (R454). -/
  | seqCmp
  /-- SEQ_INWIN: window membership (R455). -/
  | seqInwin
  /-- END_SEQ: the end-sequence of the segment in the header registers (R456). -/
  | endSeq
  /-- REG_WRITE: write a 32-bit value to the register at offset `off` (R480). -/
  | regWrite (off : BitVec 30) (data : Word)
  /-- REG_READ: read the 32-bit register at offset `off` (R481). -/
  | regRead (off : BitVec 30)
  /-- FB_WRITE: write the byte in bits [7:0] of `data` to frame-buffer index `off` (R482). -/
  | fbWrite (off : BitVec 30) (data : Word)
  /-- FB_READ: read the byte at frame-buffer index `off` (R483). -/
  | fbRead (off : BitVec 30)
deriving DecidableEq, Repr

/-- The commands a CMD write can run (R310). -/
inductive Command where
  | build | parse | seqAdd | seqSub | seqCmp | seqInwin | endSeq
deriving DecidableEq, Repr

/-- A command as an instruction of the table. -/
def Command.toInstr : Command → Instr
  | .build => .build
  | .parse => .parse
  | .seqAdd => .seqAdd
  | .seqSub => .seqSub
  | .seqCmp => .seqCmp
  | .seqInwin => .seqInwin
  | .endSeq => .endSeq

/-- The two encodings an instruction can have (30_encoding.md): a command is one 32-bit command word
(R309), a host transaction one 64-bit record (R313). -/
inductive Encoded where
  | command (w : Word)
  | record (r : Record)
deriving DecidableEq, Repr

/-- Why a word is not the encoding of an instruction. -/
inductive DecodeError where
  /-- a command word whose OP is 0 or 8 to 15 (R311); safe: as a CMD write it runs, with status EOP -/
  | illegalOp
  /-- a command word whose RSV bits are not all 0 (R311); safe: as a CMD write it runs, with status EOP -/
  | reservedBits
  /-- a read record whose DATA is not 0, or an FB_WRITE record whose DATA[31:8] is not 0 (R313, log 7); safe -/
  | malformedData
deriving DecidableEq, Repr

/-- The registers by name (R112). -/
inductive Reg where
  | cmd | status | seq | ack | flags | len | opa | opb | opc | res | cfgN | cfgCap | cfgHdr | cfgOrder
deriving DecidableEq, Repr

/-- `<reg>` of the host-program syntax: a register name or a numeric offset (R314). -/
inductive RegRef where
  | name (r : Reg)
  | offset (o : BitVec 30)
deriving DecidableEq, Repr

/-- One line of a host program (R314), or one pseudo-instruction (R315). -/
inductive Line where
  /-- `WR <reg>, <value>` -/
  | wr (r : RegRef) (value : Word)
  /-- `RD <reg>` -/
  | rd (r : RegRef)
  /-- `WB <i>, <byte>` -/
  | wb (i : BitVec 30) (b : Byte)
  /-- `RB <i>` -/
  | rb (i : BitVec 30)
  /-- a command's name, for a write of its word to CMD -/
  | command (c : Command)
  /-- `WBS <i>, b0 b1 ... bk`: the bytes in turn -/
  | wbs (i : BitVec 30) (bytes : List Byte)
  /-- `RBS <i>, <n>`: `n` bytes in turn -/
  | rbs (i : BitVec 30) (n : Nat)
deriving DecidableEq, Repr

end Sys2Proof
end

