-- ==== Sys2Proof/WellFormed.lean ====
section
/-! DEFINITION. WellFormed.lean: the instructions an encoding can carry (R313). -/

namespace Sys2Proof

/-- An FB_WRITE's DATA is one byte: bits [31:8] are 0 (R313). Every other field takes every value. An
offset that reaches no register or no byte is well formed: its BusError is the transaction's own (R610). -/
def Instr.wellFormed : Instr → Bool
  | .build => true
  | .parse => true
  | .seqAdd => true
  | .seqSub => true
  | .seqCmp => true
  | .seqInwin => true
  | .endSeq => true
  | .regWrite _ _ => true
  | .regRead _ => true
  | .fbWrite _ data => data.extractLsb' 8 24 == 0#24
  | .fbRead _ => true

end Sys2Proof
end

