-- ==== Sys2Proof/Decode.lean ====
section
/-! DEFINITION. Decode.lean: the command word (R309 to R311) and the transaction record (R313) read and
written, and the host-program lines expanded (R314, R315). -/

namespace Sys2Proof

/-- OP, bits [3:0] of a command word (R309). -/
def cmdOp (w : Word) : BitVec 4 := w.extractLsb' 0 4

/-- RSV, bits [31:4] of a command word (R309). -/
def cmdRsv (w : Word) : BitVec 28 := w.extractLsb' 4 28

/-- The command map by OP (R310). -/
def commandOfOp (op : BitVec 4) : Except DecodeError Command :=
  match op.toNat with
  | 1 => .ok .build
  | 2 => .ok .parse
  | 3 => .ok .seqAdd
  | 4 => .ok .seqSub
  | 5 => .ok .seqCmp
  | 6 => .ok .seqInwin
  | 7 => .ok .endSeq
  | _ => .error .illegalOp

/-- The command a command word encodes: RSV must be 0 and OP one of 1 to 7 (R309, R310, R311). -/
def decodeCommand (w : Word) : Except DecodeError Command :=
  if cmdRsv w = 0#28 then commandOfOp (cmdOp w) else .error .reservedBits

/-- KIND, bits [63:62] of a record (R313). -/
def recKind (r : Record) : BitVec 2 := r.extractLsb' 62 2

/-- OFF, bits [61:32] of a record (R313). -/
def recOff (r : Record) : BitVec 30 := r.extractLsb' 32 30

/-- DATA, bits [31:0] of a record (R313). -/
def recData (r : Record) : Word := r.extractLsb' 0 32

/-- The transaction a record encodes (R313). A read's DATA is 0 and an FB_WRITE's DATA[31:8] is 0; a
record that says otherwise is none the spec gives a meaning, and is rejected by name (log 7). -/
def decodeRecord (r : Record) : Except DecodeError Instr :=
  match (recKind r).toNat with
  | 0 => .ok (.regWrite (recOff r) (recData r))
  | 1 => if recData r = 0#32 then .ok (.regRead (recOff r)) else .error .malformedData
  | 2 =>
    if (recData r).extractLsb' 8 24 = 0#24 then .ok (.fbWrite (recOff r) (recData r))
    else .error .malformedData
  | _ => if recData r = 0#32 then .ok (.fbRead (recOff r)) else .error .malformedData

/-- The instruction an encoding stands for. -/
def decode : Encoded → Except DecodeError Instr
  | .command w => (decodeCommand w).map Command.toInstr
  | .record r => decodeRecord r

/-- The command word of a command (R310). -/
def Command.word : Command → Word
  | .build => 0x00000001#32
  | .parse => 0x00000002#32
  | .seqAdd => 0x00000003#32
  | .seqSub => 0x00000004#32
  | .seqCmp => 0x00000005#32
  | .seqInwin => 0x00000006#32
  | .endSeq => 0x00000007#32

/-- A record from its three fields, KIND highest (R313). -/
def mkRecord (kind : BitVec 2) (off : BitVec 30) (data : Word) : Record := (kind ++ off) ++ data

/-- The encoding of an instruction: a command's word (R310), a transaction's record (R313). -/
def encode : Instr → Encoded
  | .build => .command Command.build.word
  | .parse => .command Command.parse.word
  | .seqAdd => .command Command.seqAdd.word
  | .seqSub => .command Command.seqSub.word
  | .seqCmp => .command Command.seqCmp.word
  | .seqInwin => .command Command.seqInwin.word
  | .endSeq => .command Command.endSeq.word
  | .regWrite off data => .record (mkRecord 0#2 off data)
  | .regRead off => .record (mkRecord 1#2 off 0#32)
  | .fbWrite off data => .record (mkRecord 2#2 off data)
  | .fbRead off => .record (mkRecord 3#2 off 0#32)

/-- The byte offset of a register (R112). -/
def Reg.offset : Reg → BitVec 30
  | .cmd => 0x00#30
  | .status => 0x04#30
  | .seq => 0x08#30
  | .ack => 0x0C#30
  | .flags => 0x10#30
  | .len => 0x14#30
  | .opa => 0x18#30
  | .opb => 0x1C#30
  | .opc => 0x20#30
  | .res => 0x24#30
  | .cfgN => 0x28#30
  | .cfgCap => 0x2C#30
  | .cfgHdr => 0x30#30
  | .cfgOrder => 0x34#30

/-- The offset a `<reg>` of the host-program syntax names (R314). -/
def RegRef.toOffset : RegRef → BitVec 30
  | .name r => r.offset
  | .offset o => o

/-- The record by which the host issues a command: `WR CMD, <word>` (R106, R315). Its upper 32 bits are
KIND 0 and the offset 0 of CMD, so it is the command word with zeros above. -/
def Command.record (c : Command) : Record := mkRecord 0#2 Reg.cmd.offset c.word

/-- `WBS`: one FB_WRITE record per byte, at rising indices (R315). R315 gives no record for an index past
`2^30 - 1`, the largest OFF holds; that the next index is then 0, and that a line with no bytes stands for no
record, is the model's choice (DESIGN CHOICE, log 13). -/
def wbsRecords (i : BitVec 30) : List Byte → List Record
  | [] => []
  | b :: bs => mkRecord 2#2 i (b.setWidth 32) :: wbsRecords (i + 1#30) bs

/-- `RBS`: one FB_READ record per index, rising (R315). R315 gives no record for an index past `2^30 - 1`, the
largest OFF holds; that the next index is then 0, and that a line with `n` = 0 stands for no record, is the
model's choice (DESIGN CHOICE, log 13). -/
def rbsRecords (i : BitVec 30) : Nat → List Record
  | 0 => []
  | n + 1 => mkRecord 3#2 i 0#32 :: rbsRecords (i + 1#30) n

/-- The records a line of a host program stands for (R314, R315). -/
def Line.records : Line → List Record
  | .wr r value => [mkRecord 0#2 r.toOffset value]
  | .rd r => [mkRecord 1#2 r.toOffset 0#32]
  | .wb i b => [mkRecord 2#2 i (b.setWidth 32)]
  | .rb i => [mkRecord 3#2 i 0#32]
  | .command c => [c.record]
  | .wbs i bytes => wbsRecords i bytes
  | .rbs i n => rbsRecords i n

/-- The instruction of a row of spec/opcode_table.json: a 32-bit row is a command word (R309), a 64-bit
row a transaction record (R313); no row has another width. Bit 0 of `w` is bit 0 of the word. -/
def decodeTableWord (nbits w : Nat) : Option Instr :=
  match nbits with
  | 32 => (decode (.command (BitVec.ofNat 32 w))).toOption
  | 64 => (decode (.record (BitVec.ofNat 64 w))).toOption
  | _ => none

end Sys2Proof
end

