-- ==== Sys2Proof/Machine/State.lean ====
section
/-! DEFINITION. Machine/State.lean: the framer's architectural state (R100), the host's side of the port
(R13), the reasons a step can stop, and the state after reset (R700). -/

namespace Sys2Proof.Machine

/-- STATUS.CODE: the only four values it takes (R107, R602; log 11). -/
inductive StatusCode where
  /-- 0: the command completed -/
  | ok
  /-- 1: a length exceeds CAP (R603) -/
  | elen
  /-- 2: a sequence value is at least N (R604) -/
  | erange
  /-- 3: illegal command word (R605) -/
  | eop
deriving DecidableEq, Repr

/-- The frame buffer's written bytes, as (index, byte) pairs (R201). A byte nothing has written since
reset is not listed (R700, log 2). -/
abbrev Memory := List Host.Cell

/-- One access on the host port, of any width in bits, at any byte offset (R200, R208, R209). An access
8 bits wide carries its byte in bits [7:0] of `data`. -/
inductive PortAccess where
  | read (width : Nat) (off : Word)
  | write (width : Nat) (off : Word) (data : Word)
deriving DecidableEq, Repr

/-- One thing the outside world does to the framer. -/
inductive HostEvent where
  /-- one of the four transactions, as its record (R313) -/
  | record (r : Record)
  /-- a port access, also of a width no record carries (R208, R209, R610; log 8) -/
  | access (a : PortAccess)
  /-- reset (R700; log 9) -/
  | reset
deriving DecidableEq, Repr

/-- What a read returned to the host (R13, R481, R483). -/
inductive ReadValue where
  /-- a REG_READ's 32-bit value -/
  | word (w : Word)
  /-- an FB_READ's byte -/
  | byte (b : Byte)
deriving DecidableEq, Repr

/-- The faults of a run. -/
inductive Fault where
  /-- BusError (R610): raised by a host transaction the port cannot accept, at that port offset. No state
  changes and no value is returned; the run ends in a host fault (log 6). Safe. -/
  | busError (off : Nat)
deriving DecidableEq, Repr

/-- The refusals: no meaning for what was to be run. -/
inductive Refusal where
  /-- an instruction of the opcode table without a meaning yet; raised by no arm of this model. Safe. -/
  | notModelled (mnemonic : String)
  /-- raised by step on a record that is the encoding of no transaction (R313; log 7). Safe. -/
  | malformedRecord (why : DecodeError)
deriving DecidableEq, Repr

/-- The framer's state (R100) and the host's side of its port (R13). CMD stores nothing (R106), CFG_HDR is
hard-wired (R119), and FLAGS.ACKLIKE is computed from the other flags (R104, log 10): none has a field. -/
structure State where
  /-- the build parameters; CFG_N, CFG_CAP and CFG_ORDER are their views (R6, R117, R118, R120, R702) -/
  cfg : Params
  /-- SEQ [15:0] (R103) -/
  seq : Half
  /-- ACK [15:0] (R103) -/
  ack : Half
  /-- FLAGS [3:0]: DUPACK, ACK, FIN, SYN from bit 3 down (R104) -/
  flags : BitVec 4
  /-- LEN (R105) -/
  len : Word
  /-- STATUS.CODE (R107) -/
  status : StatusCode
  /-- OPA (R108) -/
  opa : Word
  /-- OPB (R109) -/
  opb : Word
  /-- OPC (R110) -/
  opc : Word
  /-- RES (R111) -/
  res : Word
  /-- FB: the bytes written since reset (R201) -/
  fb : Memory
  /-- the MODEL's own: which power-up draw the unwritten bytes of FB come from (I-1, log 2) -/
  powerUp : Nat
  /-- the host's side: the events still to come, in issue order (R13, R213; log 3) -/
  program : List HostEvent
  /-- the host's side: the values its reads returned, oldest first (R13; log 5) -/
  returned : List ReadValue
deriving DecidableEq, Repr

/-- The state right after reset of a block built with parameters `p` (R700), with the unspecified bytes of
FB taken from power-up draw `draw` (I-1). -/
def State.resetWith (p : Params) (draw : Nat) : State :=
  { cfg := p
    seq := 0#16
    ack := 0#16
    flags := 0#4
    len := 0#32
    status := .ok
    opa := 0#32
    opb := 0#32
    opc := 0#32
    res := 0#32
    fb := []
    powerUp := draw
    program := []
    returned := [] }

/-- The machine right after reset (R700), for the block R6's vector values describe (log 1). The host has
nothing to issue yet: a program comes from outside (log 3). -/
def State.reset : State := State.resetWith Params.vectors 0

end Sys2Proof.Machine
end

