-- ==== Sys2Proof/Machine/Ops.lean ====
section
/-! DEFINITION. Machine/Ops.lean: the named operations over registers and the frame buffer: the pseudocode
primitives of R10, the byte order of R205, the ends of a command (R601), BusError (R610) and reset (R700). -/

namespace Sys2Proof.Machine

/-! ### Sizes (R7) -/

/-- `HDR`, and the payload's base index `PAYLOAD_BASE` (R7). -/
def hdr : Nat := 12

/-- `FRAME_SIZE = HDR + CAP` (R7). -/
def frameSize (p : Params) : Nat := hdr + p.cap

/-- The port offset at which the frame buffer begins (R202). -/
def fbBase : Nat := 0x100

/-! ### The frame buffer's written bytes -/

/-- The form the list is kept in: indices strictly rising. No entry equals what an unlisted index reads as,
because an unlisted index reads as 'not written' (log 2). -/
abbrev Memory.wf (m : Memory) : Prop := m.Pairwise (fun a b => a.1 < b.1)

/-- The byte written at index `i` since reset, if one was. -/
def Memory.read : Memory → Nat → Option Byte
  | [], _ => none
  | (j, b) :: rest, i => if i = j then some b else Memory.read rest i

/-- The list after byte `b` is written at index `i`. -/
def Memory.write : Memory → Nat → Byte → Memory
  | [], i, b => [(i, b)]
  | (j, c) :: rest, i, b =>
    if i < j then (i, b) :: (j, c) :: rest
    else if i = j then (i, b) :: rest
    else (j, c) :: Memory.write rest i b

/-- The list after the bytes `bs` are written at `i`, `i + 1`, and so on. -/
def Memory.writeList (m : Memory) (i : Nat) : List Byte → Memory
  | [] => m
  | b :: bs => Memory.writeList (Memory.write m i b) (i + 1) bs

/-! ### One register or field written at a time (R10) -/

/-- `x[SEQ] <- v` -/
def State.withSeq (s : State) (v : Half) : State := { s with seq := v }
/-- `x[ACK] <- v` -/
def State.withAck (s : State) (v : Half) : State := { s with ack := v }
/-- `x[FLAGS][3:0] <- v`; ACKLIKE follows (R104) -/
def State.withFlags (s : State) (v : BitVec 4) : State := { s with flags := v }
/-- `x[LEN] <- v` -/
def State.withLen (s : State) (v : Word) : State := { s with len := v }
/-- `x[STATUS].CODE <- v` -/
def State.withStatus (s : State) (v : StatusCode) : State := { s with status := v }
/-- `x[OPA] <- v` -/
def State.withOpa (s : State) (v : Word) : State := { s with opa := v }
/-- `x[OPB] <- v` -/
def State.withOpb (s : State) (v : Word) : State := { s with opb := v }
/-- `x[OPC] <- v` -/
def State.withOpc (s : State) (v : Word) : State := { s with opc := v }
/-- `x[RES] <- v` -/
def State.withRes (s : State) (v : Word) : State := { s with res := v }
/-- the frame buffer replaced -/
def State.withFb (s : State) (m : Memory) : State := { s with fb := m }
/-- the host's remaining events replaced -/
def State.withProgram (s : State) (p : List HostEvent) : State := { s with program := p }
/-- a read returns `v` to the host (R13) -/
def State.give (s : State) (v : ReadValue) : State := { s with returned := s.returned ++ [v] }

/-! ### Frame-buffer access (R10, R205) -/

/-- `FB[i]`: the byte written there, or, where nothing has written since reset, the unspecified byte of this
power-up (I-1, R700). -/
def State.fbByte (s : State) (i : Nat) : Byte :=
  (Memory.read s.fb i).getD (Config.fbPowerUp s.powerUp i)

/-- `FB[i] <- b` -/
def State.setFbByte (s : State) (i : Nat) (b : Byte) : State := s.withFb (Memory.write s.fb i b)

/-- The unsigned value of bytes in little-endian order (R205). -/
def assembleLE : List Byte → Nat
  | [] => 0
  | b :: bs => b.toNat + 256 * assembleLE bs

/-- The unsigned value of bytes in `BYTE_ORDER` (R205). -/
def assemble : ByteOrder → List Byte → Nat
  | .le, bs => assembleLE bs
  | .be, bs => assembleLE bs.reverse

/-- The `k` low bytes of `v`, least significant first (R205). -/
def splitLE : (k : Nat) → (v : Nat) → List Byte
  | 0, _ => []
  | k + 1, v => BitVec.ofNat 8 v :: splitLE k (v / 256)

/-- The `k` low bytes of `v` in `BYTE_ORDER` (R205). -/
def splitBytes : ByteOrder → (k : Nat) → (v : Nat) → List Byte
  | .le, k, v => splitLE k v
  | .be, k, v => (splitLE k v).reverse

/-- The bytes `FB[i .. i+k-1]`, first index first. -/
def State.fbBytes (s : State) (i : Nat) : (k : Nat) → List Byte
  | 0 => []
  | k + 1 => s.fbByte i :: s.fbBytes (i + 1) k

/-- `MemRead(i, k)` (R10, R205). -/
def State.memRead (s : State) (i k : Nat) : Nat := assemble s.cfg.order (s.fbBytes i k)

/-- `MemWrite(i, k, v)` (R10, R205), as what it makes of the frame buffer's written bytes. -/
def Memory.memWrite (o : ByteOrder) (m : Memory) (i k v : Nat) : Memory :=
  Memory.writeList m i (splitBytes o k v)

/-! ### The ends of a command, BusError, reset -/

/-- `fail(code)`: the command ends with that status, keeping only what it wrote before (R10, R601). -/
def State.fail (s : State) (code : StatusCode) : State := s.withStatus code

/-- `done()`: the command ends with status OK (R10). -/
def State.done (s : State) : State := s.withStatus .ok

/-- `raise BusError(addr)`: the transaction is refused at port offset `off` and no state changes (R10, R610). -/
def raiseBusError (off : Nat) : Host.Outcome State Fault Refusal := .fault (.busError off)

/-- Reset (R700): every register at its reset value, FB unspecified again, the parameters as they were
(R702). What the host has read and what it has still to issue is the host's own (log 9). -/
def State.applyReset (s : State) : State :=
  { State.resetWith s.cfg (s.powerUp + 1) with program := s.program, returned := s.returned }

end Sys2Proof.Machine
end

