-- ==== Sys2Proof/Machine/Flags.lean ====
section
/-! DEFINITION. Machine/Flags.lean: the FLAGS register and the flag bytes of a frame (R104, R304, R401). -/

namespace Sys2Proof.Machine

/-- SYN, bit 0 of FLAGS (R104). -/
def State.flagSyn (s : State) : Bool := s.flags.getLsbD 0

/-- FIN, bit 1 of FLAGS (R104). -/
def State.flagFin (s : State) : Bool := s.flags.getLsbD 1

/-- ACKLIKE, bit 4 of FLAGS, from the four flags: ACK OR DUPACK (R104). -/
def ackLike (f : BitVec 4) : Bool := f.getLsbD 2 || f.getLsbD 3

/-- What FLAGS reads as: ACKLIKE above the four flags, zeros above that (R104, R480). -/
def flagsWord (f : BitVec 4) : Word := (BitVec.ofBool (ackLike f) ++ f).setWidth 32

/-- `encflag(b)` (R304). -/
def encflag (b : Bool) : Byte := if b then 0x01#8 else 0x00#8

/-- `decflag(byte)`: any byte but 0 is set (R304). -/
def decflag (b : Byte) : Bool := b != 0x00#8

/-- The four flag bytes in the order syn, fin, ack, dupack (R304, R401). -/
def flagBytes (f : BitVec 4) : List Byte :=
  [encflag (f.getLsbD 0), encflag (f.getLsbD 1), encflag (f.getLsbD 2), encflag (f.getLsbD 3)]

/-- `EncodeFlags(f)`: FLAGS bit k to byte 4 + k (R401, R307). -/
def Memory.encodeFlags (m : Memory) (f : BitVec 4) : Memory := Memory.writeList m 4 (flagBytes f)

/-- `DecodeFlags()`: byte 4 + k to FLAGS bit k (R401, R307). -/
def State.decodeFlags (s : State) : BitVec 4 :=
  BitVec.ofBool (decflag (s.fbByte 7)) ++ BitVec.ofBool (decflag (s.fbByte 6)) ++
    BitVec.ofBool (decflag (s.fbByte 5)) ++ BitVec.ofBool (decflag (s.fbByte 4))

end Sys2Proof.Machine
end

