-- ==== Sys2Proof/Machine/Operands.lean ====
section
/-! DEFINITION. Machine/Operands.lean: how commands and transactions name and test their operands: the
register map (R112), reads and writes of a register (R114, R480, R481), the range checks (R105, R450), and
the modular arithmetic (R9, R451). -/

namespace Sys2Proof.Machine

/-- The register at a byte offset (R112). None where the port refuses the access: an offset not divisible
by 4, at or above 0x100, or in the reserved range 0x38 to 0xFC (R113, R208). -/
def regAt (o : Nat) : Option Reg :=
  if o % 4 ≠ 0 ∨ 0x100 ≤ o then none
  else
    match o / 4 with
    | 0 => some .cmd
    | 1 => some .status
    | 2 => some .seq
    | 3 => some .ack
    | 4 => some .flags
    | 5 => some .len
    | 6 => some .opa
    | 7 => some .opb
    | 8 => some .opc
    | 9 => some .res
    | 10 => some .cfgN
    | 11 => some .cfgCap
    | 12 => some .cfgHdr
    | 13 => some .cfgOrder
    | _ => none

/-- STATUS.CODE as its number (R602). -/
def StatusCode.number : StatusCode → BitVec 4
  | .ok => 0#4
  | .elen => 1#4
  | .erange => 2#4
  | .eop => 3#4

/-- CFG_ORDER bit 0 (R120). -/
def orderCode : ByteOrder → Word
  | .le => 0#32
  | .be => 1#32

/-- What a 32-bit read of a register returns: its stored bits, zeros in the reserved ones; CMD reads 0
(R106, R112, R114, R481). -/
def State.readReg (s : State) : Reg → Word
  | .cmd => 0#32
  | .status => s.status.number.setWidth 32
  | .seq => s.seq.setWidth 32
  | .ack => s.ack.setWidth 32
  | .flags => flagsWord s.flags
  | .len => s.len
  | .opa => s.opa
  | .opb => s.opb
  | .opc => s.opc
  | .res => s.res
  | .cfgN => BitVec.ofNat 32 s.cfg.n
  | .cfgCap => BitVec.ofNat 32 s.cfg.cap
  | .cfgHdr => BitVec.ofNat 32 hdr
  | .cfgOrder => orderCode s.cfg.order

/-- A 32-bit write of a register that stores: a read-only register ignores it, reserved bits are dropped,
and FLAGS.ACKLIKE is not writable (R103, R104, R107, R111, R114, R480). CMD stores nothing: the command its
write runs is the port's business (R106). -/
def State.writeReg (s : State) (r : Reg) (w : Word) : State :=
  match r with
  | .cmd => s
  | .status => s
  | .seq => s.withSeq (w.setWidth 16)
  | .ack => s.withAck (w.setWidth 16)
  | .flags => s.withFlags (w.setWidth 4)
  | .len => s.withLen w
  | .opa => s.withOpa w
  | .opb => s.withOpb w
  | .opc => s.withOpc w
  | .res => s
  | .cfgN => s
  | .cfgCap => s
  | .cfgHdr => s
  | .cfgOrder => s

/-- A value is in the sequence space: below `N` (R450). -/
abbrev State.inRange (s : State) (v : Nat) : Prop := v < s.cfg.n

/-- A length is one the payload region can hold: at most `CAP` (R105, R603). -/
abbrev State.fits (s : State) (l : Nat) : Prop := l ≤ s.cfg.cap

/-- `(a - b) mod N` on mathematical integers: the steps forward from `b` to `a` (R9, R451, R453). -/
def distance (n a b : Nat) : Nat := (((a : Int) - (b : Int)) % (n : Int)).toNat

end Sys2Proof.Machine
end

