-- ==== Sys2Proof/Machine/Framer.lean ====
section
/-! DEFINITION. Machine/Framer.lean: the framer commands BUILD (R402) and PARSE (R403). -/

namespace Sys2Proof.Machine

/-- The header BUILD lays out in `FB[0..11]` (R301, R402): seqnum, acknum, the flag bytes, length, one write
after the other; the payload region is not written. -/
def State.headerWritten (s : State) : Memory :=
  let o := s.cfg.order
  let m := Memory.memWrite o s.fb 0 2 s.seq.toNat
  let m := Memory.memWrite o m 2 2 s.ack.toNat
  let m := Memory.encodeFlags m s.flags
  Memory.memWrite o m 8 4 s.len.toNat

/-- The state with BUILD's header in its frame buffer (R402). -/
def State.writeHeader (s : State) : State := s.withFb s.headerWritten

/-- The header registers PARSE loads from `FB[0..11]`, whatever the outcome (R403). -/
def State.loadHeader (s : State) : State :=
  (((s.withSeq (BitVec.ofNat 16 (s.memRead 0 2))).withAck (BitVec.ofNat 16 (s.memRead 2 2))).withFlags
    s.decodeFlags).withLen (BitVec.ofNat 32 (s.memRead 8 4))

/-- BUILD (R402): the length is checked first (R606); a failure writes nothing but STATUS (R601). -/
def execBuild (s : State) : Host.Outcome State Fault Refusal :=
  .next <|
    if ¬ s.fits s.len.toNat then s.fail .elen
    else if ¬ s.inRange s.seq.toNat ∨ ¬ s.inRange s.ack.toNat then s.fail .erange
    else s.writeHeader.done

/-- PARSE (R403): the header registers are written before the checks, so also on an error (R601). -/
def execParse (s : State) : Host.Outcome State Fault Refusal :=
  .next <|
    if ¬ s.fits (s.memRead 8 4) then s.loadHeader.fail .elen
    else if ¬ s.inRange (s.memRead 0 2) ∨ ¬ s.inRange (s.memRead 2 2) then s.loadHeader.fail .erange
    else s.loadHeader.done

end Sys2Proof.Machine
end

