-- ==== Sys2Proof/Machine/Seqspace.lean ====
section
/-! DEFINITION. Machine/Seqspace.lean: the sequence-space commands (R450 to R456). Every result is formed on
unbounded integers and then reduced (R451). -/

namespace Sys2Proof.Machine

/-- A sequence-space command's success: RES takes the result and the status is OK (R111, R10). -/
def State.finish (s : State) (v : Nat) : State := (s.withRes (BitVec.ofNat 32 v)).done

/-- SEQ_ADD (R452). -/
def execSeqAdd (s : State) : Host.Outcome State Fault Refusal :=
  .next <|
    if ¬ s.inRange s.opa.toNat then s.fail .erange
    else s.finish ((s.opa.toNat + s.opb.toNat) % s.cfg.n)

/-- SEQ_SUB (R453). -/
def execSeqSub (s : State) : Host.Outcome State Fault Refusal :=
  .next <|
    if ¬ s.inRange s.opa.toNat ∨ ¬ s.inRange s.opb.toNat then s.fail .erange
    else s.finish (distance s.cfg.n s.opa.toNat s.opb.toNat)

/-- EQ, LT and GT of SEQ_CMP as bits 0, 1 and 2, from the forward distance `d` (R454). -/
def orderBits (n d : Nat) : BitVec 3 :=
  BitVec.ofBool (decide (d ≠ 0 ∧ 2 * d > n)) ++ BitVec.ofBool (decide (d ≠ 0 ∧ 2 * d < n)) ++
    BitVec.ofBool (decide (d = 0))

/-- SEQ_CMP (R454): the forward distance is from OPA to OPB. -/
def execSeqCmp (s : State) : Host.Outcome State Fault Refusal :=
  .next <|
    if ¬ s.inRange s.opa.toNat ∨ ¬ s.inRange s.opb.toNat then s.fail .erange
    else s.finish (orderBits s.cfg.n (distance s.cfg.n s.opb.toNat s.opa.toNat)).toNat

/-- SEQ_INWIN (R455). -/
def execSeqInwin (s : State) : Host.Outcome State Fault Refusal :=
  .next <|
    if ¬ s.inRange s.opa.toNat ∨ ¬ s.inRange s.opb.toNat then s.fail .erange
    else s.finish (if distance s.cfg.n s.opa.toNat s.opb.toNat < s.opc.toNat then 1 else 0)

/-- END_SEQ (R456): SYN and FIN each consume one sequence value; ACK is not read. -/
def execEndSeq (s : State) : Host.Outcome State Fault Refusal :=
  .next <|
    if ¬ s.fits s.len.toNat then s.fail .elen
    else if ¬ s.inRange s.seq.toNat then s.fail .erange
    else s.finish ((s.seq.toNat + s.len.toNat + s.flagSyn.toNat + s.flagFin.toNat) % s.cfg.n)

end Sys2Proof.Machine
end

