-- ==== Sys2Proof/Machine/HostPort.lean ====
section
/-! DEFINITION. Machine/HostPort.lean: the host port: the four transactions (R480 to R483), the command a
CMD write runs (R106, R310, R311), and the port access of any width (R202, R208, R209, R610). -/

namespace Sys2Proof.Machine

/-- The command a CMD write runs, in the same step (R106, R310). -/
def runCommand (c : Command) (s : State) : Host.Outcome State Fault Refusal :=
  match c with
  | .build => execBuild s
  | .parse => execParse s
  | .seqAdd => execSeqAdd s
  | .seqSub => execSeqSub s
  | .seqCmp => execSeqCmp s
  | .seqInwin => execSeqInwin s
  | .endSeq => execEndSeq s

/-- A write of `w` to CMD: the command it encodes, or, for an illegal word, status EOP and nothing else
(R106, R311, R605). -/
def writeCmd (w : Word) (s : State) : Host.Outcome State Fault Refusal :=
  match decodeCommand w with
  | .ok c => runCommand c s
  | .error _ => .next (s.fail .eop)

/-- A 32-bit write at register offset `o` (R480). -/
def regWriteAt (o : Nat) (w : Word) (s : State) : Host.Outcome State Fault Refusal :=
  match regAt o with
  | none => raiseBusError o
  | some .cmd => writeCmd w s
  | some r => .next (s.writeReg r w)

/-- A 32-bit read at register offset `o` (R481). -/
def regReadAt (o : Nat) (s : State) : Host.Outcome State Fault Refusal :=
  match regAt o with
  | none => raiseBusError o
  | some r => .next (s.give (.word (s.readReg r)))

/-- An 8-bit write at frame-buffer index `i` (R482). -/
def fbWriteAt (i : Nat) (b : Byte) (s : State) : Host.Outcome State Fault Refusal :=
  if frameSize s.cfg ≤ i then raiseBusError (fbBase + i) else .next (s.setFbByte i b)

/-- An 8-bit read at frame-buffer index `i` (R483). A byte nothing has written returns the unspecified
byte of this power-up (I-1). -/
def fbReadAt (i : Nat) (s : State) : Host.Outcome State Fault Refusal :=
  if frameSize s.cfg ≤ i then raiseBusError (fbBase + i) else .next (s.give (.byte (s.fbByte i)))

/-- REG_WRITE (R480): a record's register access is 32 bits wide. -/
def execRegWrite (off : BitVec 30) (data : Word) (s : State) : Host.Outcome State Fault Refusal :=
  regWriteAt off.toNat data s

/-- REG_READ (R481). -/
def execRegRead (off : BitVec 30) (s : State) : Host.Outcome State Fault Refusal :=
  regReadAt off.toNat s

/-- FB_WRITE (R482): the byte is in bits [7:0] of DATA (R313). -/
def execFbWrite (off : BitVec 30) (data : Word) (s : State) : Host.Outcome State Fault Refusal :=
  fbWriteAt off.toNat (data.setWidth 8) s

/-- FB_READ (R483). -/
def execFbRead (off : BitVec 30) (s : State) : Host.Outcome State Fault Refusal :=
  fbReadAt off.toNat s

/-- A port access of any width at any offset (R202): below 0x100 only 32 bits wide reaches a register
(R208), from 0x100 on only 8 bits wide reaches the frame buffer (R209); any other is refused (R610). -/
def portAccess (a : PortAccess) (s : State) : Host.Outcome State Fault Refusal :=
  match a with
  | .read width off =>
    if off.toNat < fbBase then
      if width ≠ 32 then raiseBusError off.toNat else regReadAt off.toNat s
    else if width ≠ 8 then raiseBusError off.toNat
    else fbReadAt (off.toNat - fbBase) s
  | .write width off data =>
    if off.toNat < fbBase then
      if width ≠ 32 then raiseBusError off.toNat else regWriteAt off.toNat data s
    else if width ≠ 8 then raiseBusError off.toNat
    else fbWriteAt (off.toNat - fbBase) (data.setWidth 8) s

end Sys2Proof.Machine
end

