-- ==== Sys2Proof/Machine/Dispatch.lean ====
section
/-! DEFINITION. Machine/Dispatch.lean: the meaning of each instruction, one arm per constructor. -/

namespace Sys2Proof.Machine

/-- What an instruction does to the state. -/
def exec (i : Instr) (s : State) : Host.Outcome State Fault Refusal :=
  match i with
  | .build => Sys2Proof.Machine.execBuild s
  | .parse => Sys2Proof.Machine.execParse s
  | .seqAdd => Sys2Proof.Machine.execSeqAdd s
  | .seqSub => Sys2Proof.Machine.execSeqSub s
  | .seqCmp => Sys2Proof.Machine.execSeqCmp s
  | .seqInwin => Sys2Proof.Machine.execSeqInwin s
  | .endSeq => Sys2Proof.Machine.execEndSeq s
  | .regWrite off data => Sys2Proof.Machine.execRegWrite off data s
  | .regRead off => Sys2Proof.Machine.execRegRead off s
  | .fbWrite off data => Sys2Proof.Machine.execFbWrite off data s
  | .fbRead off => Sys2Proof.Machine.execFbRead off s

end Sys2Proof.Machine
end

