-- ==== Sys2Proof/Machine/Fetch.lean ====
section
/-! DEFINITION. Machine/Fetch.lean: one host event answered (R13, R210), and the record of a table word. -/

namespace Sys2Proof.Machine

/-- A record answered: the instruction it decodes to, or a refusal by name (R313, log 7). -/
def runRecord (r : Record) (s : State) : Host.Outcome State Fault Refusal :=
  match decodeRecord r with
  | .ok i => exec i s
  | .error e => .refused (.malformedRecord e)

/-- One host event answered (R13, R700). -/
def runEvent (e : HostEvent) (s : State) : Host.Outcome State Fault Refusal :=
  match e with
  | .record r => runRecord r s
  | .access a => portAccess a s
  | .reset => .next s.applyReset

/-- The record whose low `nbits` bits are `w`'s and whose other bits are 0. For 64 bits that is the
transaction itself (R313). For 32 bits it is the CMD write of the command word `w`, whose record is the word
with zeros above (R106, R315). -/
def tableRecord (nbits w : Nat) : Record := BitVec.ofNat 64 (w % 2 ^ nbits)

end Sys2Proof.Machine
end

