-- ==== Sys2Proof/Machine/Step.lean ====
section
/-! DEFINITION. Machine/Step.lean: one step of the machine: the host's next event, answered (R13, R210,
R213); and how a word is put where step takes its next instruction. -/

namespace Sys2Proof.Machine

/-- One step: the oldest event the host has still to issue is issued and answered (R213). With none left the
framer is idle and all state persists (R617, R701, log 4). -/
def step (s : State) : Host.Outcome State Fault Refusal :=
  match s.program with
  | [] => .next s
  | e :: rest => runEvent e (s.withProgram rest)

/-- `s` with the record of a table word as the host's next event, before the others (log 3). -/
def State.withFetchWord (s : State) (nbits w : Nat) : State :=
  s.withProgram (.record (tableRecord nbits w) :: s.program)

end Sys2Proof.Machine
end

