-- ==== Sys2Proof/Safety.lean ====
section
/-! DEFINITION. Safety.lean: the terms claims use: the invariant of the machine, the accesses the port
accepts, a run's observation, and what a frame means. -/

namespace Sys2Proof.Safety

open Sys2Proof.Machine

/-- The invariant of every state a block can be in: legal parameters (R6); the written bytes of FB in their
one form and inside the buffer (R201); and RES a value the commands can put there, a sequence value or at
most 4 (R452 to R456). -/
structure Inv (s : State) : Prop where
  cfg : s.cfg.wf
  fb : Memory.wf s.fb
  inside : ∀ c ∈ s.fb, c.1 < frameSize s.cfg
  res : s.res.toNat < s.cfg.n ∨ s.res.toNat ≤ 4

/-- The port accesses that reach a register or a frame-buffer byte (R202, R208, R209). -/
abbrev Accepted (p : Params) (width : Nat) (off : Nat) : Prop :=
  (width = 32 ∧ off % 4 = 0 ∧ off ≤ 0x34) ∨ (width = 8 ∧ 0x100 ≤ off ∧ off < 0x100 + frameSize p)

/-- The width and the port offset of the access an event asks for: its own, or those of the transaction its
record encodes (R202, R313, log 8). A reset asks for none, nor does a record that encodes nothing (log 7). -/
def accessOf : HostEvent → Option (Nat × Nat)
  | .reset => none
  | .access (.read width off) => some (width, off.toNat)
  | .access (.write width off _) => some (width, off.toNat)
  | .record r =>
    match decodeRecord r with
    | .ok (.regWrite off _) => some (32, off.toNat)
    | .ok (.regRead off) => some (32, off.toNat)
    | .ok (.fbWrite off _) => some (8, 0x100 + off.toNat)
    | .ok (.fbRead off) => some (8, 0x100 + off.toNat)
    | _ => none

/-- The host events the port accepts: a reset, and an event whose access is accepted. -/
def AcceptedEvent (p : Params) (e : HostEvent) : Prop :=
  e = .reset ∨ ∃ a, accessOf e = some a ∧ Accepted p a.1 a.2

/-- The power of 256 that byte `k` of an `m`-byte field stands for (R205). -/
def byteWeight : ByteOrder → (m k : Nat) → Nat
  | .le, _, k => k
  | .be, m, k => m - 1 - k

/-- The two bytes of a 16-bit field as they lie in FB (R205, R301). -/
def halfBytes : ByteOrder → Half → List Byte
  | .le, v => [v.extractLsb' 0 8, v.extractLsb' 8 8]
  | .be, v => [v.extractLsb' 8 8, v.extractLsb' 0 8]

/-- The four bytes of a 32-bit field as they lie in FB (R205, R301). -/
def wordBytes : ByteOrder → Word → List Byte
  | .le, v => [v.extractLsb' 0 8, v.extractLsb' 8 8, v.extractLsb' 16 8, v.extractLsb' 24 8]
  | .be, v => [v.extractLsb' 24 8, v.extractLsb' 16 8, v.extractLsb' 8 8, v.extractLsb' 0 8]

/-- A flag as its frame byte (R304). -/
def flagByte (b : Bool) : Byte := if b then 1#8 else 0#8

/-- The length a command checks against CAP, if it reads one (R603). -/
def lengthChecked (s : State) : Command → Option Nat
  | .build => some s.len.toNat
  | .parse => some (s.memRead 8 4)
  | .endSeq => some s.len.toNat
  | .seqAdd | .seqSub | .seqCmp | .seqInwin => none

/-- The sequence values a command checks against N (R604). -/
def valuesChecked (s : State) : Command → List Nat
  | .build => [s.seq.toNat, s.ack.toNat]
  | .parse => [s.memRead 0 2, s.memRead 2 2]
  | .seqAdd => [s.opa.toNat]
  | .seqSub | .seqCmp | .seqInwin => [s.opa.toNat, s.opb.toNat]
  | .endSeq => [s.seq.toNat]

/-- The bits of a register that a write stores and a read returns; none of a read-only register's (R112,
R114). -/
def writableBits : Reg → Word
  | .seq | .ack => 0x0000FFFF#32
  | .flags => 0x0000000F#32
  | .len | .opa | .opb | .opc => 0xFFFFFFFF#32
  | .cmd | .status | .res | .cfgN | .cfgCap | .cfgHdr | .cfgOrder => 0#32

/-- The bits of a register that can read as something other than 0 (R112, R114). -/
def readableBits : Reg → Word
  | .cmd => 0#32
  | .status => 0x0000000F#32
  | .seq | .ack => 0x0000FFFF#32
  | .flags => 0x0000001F#32
  | .cfgOrder => 0x00000001#32
  | .len | .opa | .opb | .opc | .res | .cfgN | .cfgCap | .cfgHdr => 0xFFFFFFFF#32

/-- The host events that write `w` to CMD: its record (R315) and the 32-bit write at offset 0. -/
def IsCmdWrite (e : HostEvent) (w : Word) : Prop :=
  e = .record (w.setWidth 64) ∨ e = .access (.write 32 0#32 w)

/-- A frame image is valid (R308). -/
abbrev ValidFrame (s : State) : Prop :=
  s.memRead 8 4 ≤ s.cfg.cap ∧ s.memRead 0 2 < s.cfg.n ∧ s.memRead 2 2 < s.cfg.n

/-- Two states have the same registers and parameters (R100, R6). -/
abbrev SameRegisters (s t : State) : Prop :=
  s.cfg = t.cfg ∧ s.seq = t.seq ∧ s.ack = t.ack ∧ s.flags = t.flags ∧ s.len = t.len ∧ s.status = t.status ∧
    s.opa = t.opa ∧ s.opb = t.opb ∧ s.opc = t.opc ∧ s.res = t.res

/-- Two states have the same header bytes in FB (R201). -/
abbrev SameHeader (s t : State) : Prop := ∀ i, i < hdr → s.fbByte i = t.fbByte i

/-- The observation of a finished run (R13): the registers, FB in index order, and the value returned by every
read. -/
structure Observation where
  registers : List Word
  frame : List Byte
  reads : List ReadValue
deriving DecidableEq, Repr

/-- The registers of R112 in the order of their offsets. -/
def allRegs : List Reg :=
  [.cmd, .status, .seq, .ack, .flags, .len, .opa, .opb, .opc, .res, .cfgN, .cfgCap, .cfgHdr, .cfgOrder]

/-- What a run that ended in `s` is observed to have done (R13). -/
def observe (s : State) : Observation :=
  { registers := allRegs.map s.readReg
    frame := s.fbBytes 0 (frameSize s.cfg)
    reads := s.returned }

end Sys2Proof.Safety
end

