-- ==== Sys2Proof/Certificates/Slice0/Obligations.lean ====
section
/-! DEFINITION. Certificates/Slice0/Obligations.lean: the statements about the framer, from the numbered
rules of spec/. Each docstring names the rules; OBLIGATIONS.json lists them. In a statement about a next state
`t`, an equation `t = { s with … }` is the whole frame: every field not written there is unchanged, the
frame buffer, the parameters and the host's side among them. -/

open Sys2Proof Sys2Proof.Machine Sys2Proof.Safety

/-! ### Encodings -/

/-- R309, R310, R313: decoding what the encoder writes gives the instruction back, for all eleven
constructors and every operand the encodings admit. -/
def Obligations.DecodeEncodeRoundTrip : Prop :=
  ∀ i : Instr, i.wellFormed = true → decode (encode i) = .ok i

/-- R309, R310 and the record table of 30_encoding.md section 4: what decodes to an instruction is that
instruction's encoding, and the instruction is well formed. So no read record with DATA other than 0 and no
FB_WRITE record with DATA[31:8] other than 0 decodes to any instruction; that is the model's choice and no rule
of the spec (DESIGN CHOICE, log 7), since R313 gives those bits their value and says nothing of a record that
holds another. -/
def Obligations.EncodeDecodeRoundTrip : Prop :=
  ∀ (e : Encoded) (i : Instr), decode e = .ok i → encode i = e ∧ i.wellFormed = true

/-- R310, and the record column of 95_test_vectors.md: a few words written out from the encodings. -/
def Obligations.TableWordsDecode : Prop :=
  decodeTableWord 32 0x00000001 = some .build ∧
  decodeTableWord 32 0x00000005 = some .seqCmp ∧
  decodeTableWord 32 0x00000007 = some .endSeq ∧
  decodeTableWord 32 0x00000011 = none ∧
  decodeTableWord 64 0x00000008000003E8 = some (.regWrite 0x08#30 1000#32) ∧
  decodeTableWord 64 0x4000000400000000 = some (.regRead 0x04#30) ∧
  decodeTableWord 64 0x8000020B000000AA = some (.fbWrite 523#30 0xAA#32) ∧
  decodeTableWord 64 0xC000000B00000000 = some (.fbRead 11#30)

/-- R106, R310, R311, R605: what a REG_WRITE to CMD runs, for every 32-bit word. -/
def Obligations.CmdWriteRunsTheCommandMap : Prop :=
  ∀ (s : State) (w : Word),
    exec (.regWrite 0x00#30 0x00000001#32) s = exec .build s ∧
    exec (.regWrite 0x00#30 0x00000002#32) s = exec .parse s ∧
    exec (.regWrite 0x00#30 0x00000003#32) s = exec .seqAdd s ∧
    exec (.regWrite 0x00#30 0x00000004#32) s = exec .seqSub s ∧
    exec (.regWrite 0x00#30 0x00000005#32) s = exec .seqCmp s ∧
    exec (.regWrite 0x00#30 0x00000006#32) s = exec .seqInwin s ∧
    exec (.regWrite 0x00#30 0x00000007#32) s = exec .endSeq s ∧
    (w.extractLsb' 0 4 = 0#4 ∨ 8 ≤ (w.extractLsb' 0 4).toNat ∨ w.extractLsb' 4 28 ≠ 0#28 →
      exec (.regWrite 0x00#30 w) s = .next { s with status := .eop })

/-! ### The step -/

/-- R13, R213: a step issues the host's oldest event. Where that is a record that decodes to `i`, the step is
exec of `i` on the state whose host has that event no longer to issue. -/
def Obligations.StepRunsDecodedRecord : Prop :=
  ∀ (s : State) (r : Record) (rest : List HostEvent) (i : Instr),
    s.program = .record r :: rest → decode (.record r) = .ok i →
      step s = exec i { s with program := rest }

/-- R11, R106, R315: a command word with 32 zero bits above it is the record of its CMD write; the step that
issues it is exec of the command. -/
def Obligations.StepRunsCommandWord : Prop :=
  ∀ (s : State) (w : Word) (rest : List HostEvent) (i : Instr),
    s.program = .record (w.setWidth 64) :: rest → decode (.command w) = .ok i →
      step s = exec i { s with program := rest }

/-- The instruction of a table word, put where step takes its next one, is what the next step runs, on the
state as it was (the model's rendering of R13, log 3). -/
def Obligations.StepRunsTableWord : Prop :=
  ∀ (s : State) (nbits w : Nat) (i : Instr),
    decodeTableWord nbits w = some i → step (s.withFetchWord nbits w) = exec i s

/-- R13, R213: a step issues the host's oldest event. Where that is a port access, of whatever width and offset
and in either direction, accepted or not, the step is that access on the state whose host has the event no
longer to issue. That a host event can be such an access is the model's reading (log 8). -/
def Obligations.StepIssuesThePortAccess : Prop :=
  ∀ (s : State) (a : PortAccess) (rest : List HostEvent),
    s.program = .access a :: rest → step s = portAccess a { s with program := rest }

/-- R617: with no event left the framer is idle and all state persists (the model's reading, log 4). -/
def Obligations.IdleFramerKeepsItsState : Prop :=
  ∀ s : State, s.program = [] → step s = .next s

/-- The model's choice (log 7), on the form R313 gives DATA: a read record whose DATA is not 0, or an FB_WRITE
record whose DATA[31:8] is not 0, is refused by name. -/
def Obligations.MalformedRecordIsRefused : Prop :=
  ∀ (s : State) (r : Record) (rest : List HostEvent),
    s.program = .record r :: rest →
    ((r.extractLsb' 62 2 = 1#2 ∨ r.extractLsb' 62 2 = 3#2) ∧ r.extractLsb' 0 32 ≠ 0#32) ∨
      (r.extractLsb' 62 2 = 2#2 ∧ r.extractLsb' 8 24 ≠ 0#24) →
      step s = .refused (.malformedRecord .malformedData)

/-! ### The host port -/

/-- R610 (R202, R208, R209): an access is refused with BusError in exactly the cases the rule lists, whatever
its width, direction and offset; every other one is answered with a next state. -/
def Obligations.BusErrorExactlyInTheListedCases : Prop :=
  ∀ (s : State) (rest : List HostEvent) (width : Nat) (off data : Word) (a : PortAccess),
    a = .read width off ∨ a = .write width off data →
    s.program = .access a :: rest →
      ((off.toNat < 0x100 ∧ (width ≠ 32 ∨ off.toNat % 4 ≠ 0)) ∨
        (0x38 ≤ off.toNat ∧ off.toNat ≤ 0xFC) ∨
        (0x100 ≤ off.toNat ∧ off.toNat < 0x100 + frameSize s.cfg ∧ width ≠ 8) ∨
        0x100 + frameSize s.cfg ≤ off.toNat →
          step s = .fault (.busError off.toNat)) ∧
      (¬ ((off.toNat < 0x100 ∧ (width ≠ 32 ∨ off.toNat % 4 ≠ 0)) ∨
        (0x38 ≤ off.toNat ∧ off.toNat ≤ 0xFC) ∨
        (0x100 ≤ off.toNat ∧ off.toNat < 0x100 + frameSize s.cfg ∧ width ≠ 8) ∨
        0x100 + frameSize s.cfg ≤ off.toNat) →
          ∃ t, step s = .next t)

/-- R313 with R202 (the model's reading, log 8): the four transactions are the port's 32-bit accesses at OFF
and its 8-bit accesses at 0x100 + OFF. -/
def Obligations.TransactionsArePortAccesses : Prop :=
  ∀ (s : State) (off : BitVec 30) (data : Word),
    exec (.regWrite off data) s = portAccess (.write 32 (off.setWidth 32) data) s ∧
    exec (.regRead off) s = portAccess (.read 32 (off.setWidth 32)) s ∧
    exec (.fbWrite off data) s = portAccess (.write 8 (0x100#32 + off.setWidth 32) data) s ∧
    exec (.fbRead off) s = portAccess (.read 8 (0x100#32 + off.setWidth 32)) s

/-- R480: REG_WRITE, every offset and every width. A write of CMD is the command's own business
(CmdWriteRunsTheCommandMap says which). -/
def Obligations.RegWriteRule : Prop :=
  ∀ (s : State) (w : Word),
    (∀ c, decodeCommand w = .ok c → exec (.regWrite 0x00#30 w) s = exec c.toInstr s) ∧
    (∀ e, decodeCommand w = .error e → exec (.regWrite 0x00#30 w) s = .next { s with status := .eop }) ∧
    exec (.regWrite 0x04#30 w) s = .next s ∧
    exec (.regWrite 0x08#30 w) s = .next { s with seq := w.extractLsb' 0 16 } ∧
    exec (.regWrite 0x0C#30 w) s = .next { s with ack := w.extractLsb' 0 16 } ∧
    (∃ t, exec (.regWrite 0x10#30 w) s = .next t ∧ t = { s with flags := w.extractLsb' 0 4 } ∧
      t.readReg .flags = (BitVec.ofBool (w.getLsbD 3 || w.getLsbD 2) ++ w.extractLsb' 0 4).setWidth 32) ∧
    exec (.regWrite 0x14#30 w) s = .next { s with len := w } ∧
    exec (.regWrite 0x18#30 w) s = .next { s with opa := w } ∧
    exec (.regWrite 0x1C#30 w) s = .next { s with opb := w } ∧
    exec (.regWrite 0x20#30 w) s = .next { s with opc := w } ∧
    exec (.regWrite 0x24#30 w) s = .next s ∧
    exec (.regWrite 0x28#30 w) s = .next s ∧
    exec (.regWrite 0x2C#30 w) s = .next s ∧
    exec (.regWrite 0x30#30 w) s = .next s ∧
    exec (.regWrite 0x34#30 w) s = .next s ∧
    (∀ off : BitVec 30, off.toNat % 4 ≠ 0 ∨ 0x38 ≤ off.toNat →
      exec (.regWrite off w) s = .fault (.busError off.toNat)) ∧
    (∀ (width : Nat) (off : Word), off.toNat < 0x100 → width ≠ 32 →
      portAccess (.write width off w) s = .fault (.busError off.toNat))

/-- R481 (with R106, R107, R117 to R120): REG_READ, every offset and every width: the value returned, and
nothing else changed. STATUS returns the number R602 gives the outcome: OK 0, ELEN 1, ERANGE 2, EOP 3. -/
def Obligations.RegReadRule : Prop :=
  ∀ s : State,
    exec (.regRead 0x00#30) s = .next { s with returned := s.returned ++ [.word 0#32] } ∧
    exec (.regRead 0x04#30) s =
      .next { s with returned := s.returned ++
        [.word (if s.status = .ok then 0#32 else if s.status = .elen then 1#32
          else if s.status = .erange then 2#32 else 3#32)] } ∧
    exec (.regRead 0x08#30) s = .next { s with returned := s.returned ++ [.word (s.seq.setWidth 32)] } ∧
    exec (.regRead 0x0C#30) s = .next { s with returned := s.returned ++ [.word (s.ack.setWidth 32)] } ∧
    exec (.regRead 0x10#30) s = .next { s with returned := s.returned ++
      [.word ((BitVec.ofBool (s.flags.getLsbD 2 || s.flags.getLsbD 3) ++ s.flags).setWidth 32)] } ∧
    exec (.regRead 0x14#30) s = .next { s with returned := s.returned ++ [.word s.len] } ∧
    exec (.regRead 0x18#30) s = .next { s with returned := s.returned ++ [.word s.opa] } ∧
    exec (.regRead 0x1C#30) s = .next { s with returned := s.returned ++ [.word s.opb] } ∧
    exec (.regRead 0x20#30) s = .next { s with returned := s.returned ++ [.word s.opc] } ∧
    exec (.regRead 0x24#30) s = .next { s with returned := s.returned ++ [.word s.res] } ∧
    exec (.regRead 0x28#30) s = .next { s with returned := s.returned ++ [.word (BitVec.ofNat 32 s.cfg.n)] } ∧
    exec (.regRead 0x2C#30) s = .next { s with returned := s.returned ++ [.word (BitVec.ofNat 32 s.cfg.cap)] } ∧
    exec (.regRead 0x30#30) s = .next { s with returned := s.returned ++ [.word 12#32] } ∧
    exec (.regRead 0x34#30) s =
      .next { s with returned := s.returned ++ [.word (if s.cfg.order = .be then 1#32 else 0#32)] } ∧
    (∀ off : BitVec 30, off.toNat % 4 ≠ 0 ∨ 0x38 ≤ off.toNat →
      exec (.regRead off) s = .fault (.busError off.toNat)) ∧
    (∀ (width : Nat) (off : Word), off.toNat < 0x100 → width ≠ 32 →
      portAccess (.read width off) s = .fault (.busError off.toNat))

/-- R482: FB_WRITE: the byte at the index, every other byte and all else unchanged; an index at or past
FRAME_SIZE = 12 + CAP, or a width other than 8, is a BusError. -/
def Obligations.FbWriteRule : Prop :=
  ∀ (s : State) (i : BitVec 30) (data : Word),
    (i.toNat < 12 + s.cfg.cap →
      ∃ t, exec (.fbWrite i data) s = .next t ∧ t = { s with fb := t.fb } ∧
        t.fbByte i.toNat = data.extractLsb' 0 8 ∧ ∀ j, j ≠ i.toNat → t.fbByte j = s.fbByte j) ∧
    (12 + s.cfg.cap ≤ i.toNat → exec (.fbWrite i data) s = .fault (.busError (0x100 + i.toNat))) ∧
    (∀ (width : Nat) (off : Word), 0x100 ≤ off.toNat → width ≠ 8 →
      portAccess (.write width off data) s = .fault (.busError off.toNat))

/-- R483: FB_READ: the byte at the index is returned and nothing else changes; an index at or past
FRAME_SIZE, or a width other than 8, is a BusError. -/
def Obligations.FbReadRule : Prop :=
  ∀ (s : State) (i : BitVec 30),
    (i.toNat < 12 + s.cfg.cap →
      exec (.fbRead i) s = .next { s with returned := s.returned ++ [.byte (s.fbByte i.toNat)] }) ∧
    (12 + s.cfg.cap ≤ i.toNat → exec (.fbRead i) s = .fault (.busError (0x100 + i.toNat))) ∧
    (∀ (width : Nat) (off : Word), 0x100 ≤ off.toNat → width ≠ 8 →
      portAccess (.read width off) s = .fault (.busError off.toNat))

/-- R213: a read of an FB byte returns what the latest write left: after `FB[i] <- b` and then a write of
another index, reading `i` returns `b`, whatever else the two writes met. -/
def Obligations.FbReadReturnsTheLatestWrite : Prop :=
  ∀ (s : State) (i j : BitVec 30) (b c : Word),
    i.toNat < 12 + s.cfg.cap → j.toNat < 12 + s.cfg.cap → i ≠ j →
      ∃ t u v w, exec (.fbWrite i b) s = .next t ∧ exec (.fbWrite j c) t = .next u ∧
        exec (.fbRead i) u = .next v ∧ exec (.fbRead j) v = .next w ∧
        w.returned = s.returned ++ [.byte (b.extractLsb' 0 8), .byte (c.extractLsb' 0 8)]

/-- The model's choice where R700 and R483 leave a byte unspecified (I-1, log 2): in every state, FB_READ of a
byte that is not among those written since reset completes, returns the free value of that byte in that power-up,
and changes nothing else; and right after a reset, no byte is among those written. -/
def Obligations.UnwrittenByteReadsAsFreeValue : Prop :=
  (∀ (s : State) (i : BitVec 30), i.toNat < 12 + s.cfg.cap → Memory.read s.fb i.toNat = none →
    exec (.fbRead i) s =
      .next { s with returned := s.returned ++ [.byte (Config.fbPowerUp s.powerUp i.toNat)] }) ∧
  ∀ (p : Params) (draw i : Nat),
    Memory.read (State.resetWith p draw).fb i = none ∧ (State.resetWith p draw).powerUp = draw

/-- R114, R112: writing a register and reading it back returns the written bits where the register stores
them, and what it read before in every other bit but FLAGS.ACKLIKE (bit 4), which follows the flags; CMD is
not among them, a write of it runs a command. -/
def Obligations.RegisterReadBack : Prop :=
  ∀ (s : State) (r : Reg) (w : Word), r ≠ .cmd →
    ∃ t u v, exec (.regWrite r.offset w) s = .next t ∧ exec (.regRead r.offset) t = .next u ∧
      u.returned = s.returned ++ [.word v] ∧
      ∀ k, (r = .flags → k ≠ 4) →
        v.getLsbD k = if (writableBits r).getLsbD k then w.getLsbD k else (s.readReg r).getLsbD k

/-- R114, R107, R104, R103, R120, R106: reserved bits of a mapped register read 0, in every state, and
STATUS never reads as a value above 3. -/
def Obligations.ReservedBitsReadZero : Prop :=
  ∀ (s : State) (r : Reg), s.readReg r &&& ~~~ (readableBits r) = 0#32 ∧ (s.readReg .status).toNat ≤ 3

/-- R104: in every state FLAGS bit 4 reads as ACK OR DUPACK, and a write's bit 4 is ignored. -/
def Obligations.AcklikeFollowsTheFlags : Prop :=
  ∀ (s : State) (w : Word),
    (s.readReg .flags).getLsbD 4 = ((s.readReg .flags).getLsbD 2 || (s.readReg .flags).getLsbD 3) ∧
    exec (.regWrite 0x10#30 (w ^^^ 0x10#32)) s = exec (.regWrite 0x10#30 w) s

/-! ### The frame buffer's byte order -/

/-- R205: `MemRead` and `MemWrite`, for every field size, in both byte orders, with the frame of
`MemWrite`. -/
def Obligations.MemReadAndMemWriteFollowByteOrder : Prop :=
  ∀ (s : State) (i m v : Nat),
    s.memRead i m =
      ∑ k ∈ Finset.range m, (s.fbByte (i + k)).toNat * 256 ^ byteWeight s.cfg.order m k ∧
    ∃ t, t = { s with fb := Memory.memWrite s.cfg.order s.fb i m v } ∧
      (∀ k, k < m → t.fbByte (i + k) = BitVec.ofNat 8 (v / 256 ^ byteWeight s.cfg.order m k)) ∧
      (∀ j, j < i ∨ i + m ≤ j → t.fbByte j = s.fbByte j)

/-- R205: reading a field back gives what was written, taken to its width. -/
def Obligations.MemReadOfMemWrite : Prop :=
  ∀ (s : State) (i m v : Nat),
    State.memRead { s with fb := Memory.memWrite s.cfg.order s.fb i m v } i m = v % 256 ^ m

/-! ### BUILD and PARSE -/

/-- R402: BUILD whole: its word, its two failures (which change STATUS only), and its success: the twelve
header bytes in the block's byte order, every payload byte and every register but STATUS unchanged. -/
def Obligations.BuildRule : Prop :=
  decodeCommand 0x00000001#32 = .ok .build ∧
  ∀ s : State,
    (s.len.toNat > s.cfg.cap → exec .build s = .next { s with status := .elen }) ∧
    (s.len.toNat ≤ s.cfg.cap → (s.seq.toNat ≥ s.cfg.n ∨ s.ack.toNat ≥ s.cfg.n) →
      exec .build s = .next { s with status := .erange }) ∧
    (s.len.toNat ≤ s.cfg.cap → s.seq.toNat < s.cfg.n → s.ack.toNat < s.cfg.n →
      ∃ t, exec .build s = .next t ∧ t = { s with fb := t.fb, status := .ok } ∧
        t.fbBytes 0 12 =
          halfBytes s.cfg.order s.seq ++ halfBytes s.cfg.order s.ack ++
            [flagByte (s.flags.getLsbD 0), flagByte (s.flags.getLsbD 1), flagByte (s.flags.getLsbD 2),
              flagByte (s.flags.getLsbD 3)] ++
            wordBytes s.cfg.order s.len ∧
        ∀ i, 12 ≤ i → t.fbByte i = s.fbByte i)

/-- R403: PARSE whole: its word; it always completes, loads the header registers from the frame whatever the
outcome, and reports the status in the order ELEN, ERANGE, OK; all else is unchanged. -/
def Obligations.ParseRule : Prop :=
  decodeCommand 0x00000002#32 = .ok .parse ∧
  ∀ s : State, ∃ t, exec .parse s = .next t ∧
    t = { s with seq := t.seq, ack := t.ack, flags := t.flags, len := t.len, status := t.status } ∧
    t.seq.toNat = s.memRead 0 2 ∧ t.ack.toNat = s.memRead 2 2 ∧ t.len.toNat = s.memRead 8 4 ∧
    (∀ k, k < 4 → t.flags.getLsbD k = decide (s.fbByte (4 + k) ≠ 0#8)) ∧
    t.status =
      (if s.memRead 8 4 > s.cfg.cap then .elen
       else if s.memRead 0 2 ≥ s.cfg.n ∨ s.memRead 2 2 ≥ s.cfg.n then .erange else .ok)

/-- R403 with R308 (R302, R303, R305), by inference: PARSE reports OK exactly for what R308 calls a valid frame
image; flags never matter. -/
def Obligations.ParseReportsOkExactlyForValidFrames : Prop :=
  ∀ s : State, ∃ t, exec .parse s = .next t ∧ (t.status = .ok ↔ ValidFrame s)

/-- R302, R303, R305: BUILD never emits a frame whose seqnum or acknum is N or more, or whose length exceeds
CAP: after a BUILD that reports OK, the frame in FB is valid. -/
def Obligations.BuildEmitsOnlyValidFrames : Prop :=
  ∀ s t : State, exec .build s = .next t → t.status = .ok → ValidFrame t

/-- R404, which the spec derives from R401, R402, R403 and R205: after a BUILD that reports OK, and whatever
happens to the registers as long as FB is not written, PARSE gives the fields back and reports OK, and no
byte of FB changes. -/
def Obligations.BuildThenParse : Prop :=
  ∀ s t u : State, exec .build s = .next t → t.status = .ok →
    u.cfg = t.cfg → u.fb = t.fb → u.powerUp = t.powerUp →
      ∃ v, exec .parse u = .next v ∧ v.seq = s.seq ∧ v.ack = s.ack ∧ v.flags = s.flags ∧ v.len = s.len ∧
        v.status = .ok ∧ (∀ i, v.fbByte i = t.fbByte i) ∧ ∀ i, 12 ≤ i → v.fbByte i = s.fbByte i

/-- R405, which the spec derives from R401, R402 and R403: after a PARSE that reports OK, BUILD rewrites the
header with each flag byte made 0 or 1, and so to itself exactly when every flag byte was 0 or 1. -/
def Obligations.ParseThenBuild : Prop :=
  ∀ s t : State, exec .parse s = .next t → t.status = .ok →
    ∃ u, exec .build t = .next u ∧ u.status = .ok ∧
      (∀ i, u.fbByte i =
        if 4 ≤ i ∧ i < 8 then (if s.fbByte i = 0#8 then 0#8 else 1#8) else s.fbByte i) ∧
      ((∀ i, i < 12 → u.fbByte i = s.fbByte i) ↔
        ∀ i, 4 ≤ i → i < 8 → s.fbByte i = 0#8 ∨ s.fbByte i = 1#8)

/-! ### The sequence-space commands -/

/-- R452: SEQ_ADD whole. -/
def Obligations.SeqAddRule : Prop :=
  decodeCommand 0x00000003#32 = .ok .seqAdd ∧
  ∀ s : State, s.cfg.wf →
    (s.opa.toNat < s.cfg.n →
      ∃ t, exec .seqAdd s = .next t ∧ t = { s with res := t.res, status := .ok } ∧
        t.res.toNat = (s.opa.toNat + s.opb.toNat) % s.cfg.n) ∧
    (s.opa.toNat ≥ s.cfg.n → exec .seqAdd s = .next { s with status := .erange })

/-- R453: SEQ_SUB whole: the mathematical remainder, and its value written without one. -/
def Obligations.SeqSubRule : Prop :=
  decodeCommand 0x00000004#32 = .ok .seqSub ∧
  ∀ s : State, s.cfg.wf →
    (s.opa.toNat < s.cfg.n → s.opb.toNat < s.cfg.n →
      ∃ t, exec .seqSub s = .next t ∧ t = { s with res := t.res, status := .ok } ∧
        (t.res.toNat : Int) = ((s.opa.toNat : Int) - (s.opb.toNat : Int)) % (s.cfg.n : Int) ∧
        t.res.toNat =
          if s.opb.toNat ≤ s.opa.toNat then s.opa.toNat - s.opb.toNat
          else s.opa.toNat + s.cfg.n - s.opb.toNat) ∧
    (s.opa.toNat ≥ s.cfg.n ∨ s.opb.toNat ≥ s.cfg.n →
      exec .seqSub s = .next { s with status := .erange })

/-- R454: SEQ_CMP whole: EQ, LT, GT in bits 0, 1, 2, zeros above, from the forward distance OPA to OPB. -/
def Obligations.SeqCmpRule : Prop :=
  decodeCommand 0x00000005#32 = .ok .seqCmp ∧
  ∀ (s : State) (d : Nat), s.cfg.wf →
    (d : Int) = ((s.opb.toNat : Int) - (s.opa.toNat : Int)) % (s.cfg.n : Int) →
    (s.opa.toNat < s.cfg.n → s.opb.toNat < s.cfg.n →
      ∃ t, exec .seqCmp s = .next t ∧ t = { s with res := t.res, status := .ok } ∧
        t.res.getLsbD 0 = decide (d = 0) ∧
        t.res.getLsbD 1 = decide (d ≠ 0 ∧ 2 * d < s.cfg.n) ∧
        t.res.getLsbD 2 = decide (d ≠ 0 ∧ 2 * d > s.cfg.n) ∧
        ∀ k, 3 ≤ k → t.res.getLsbD k = false) ∧
    (s.opa.toNat ≥ s.cfg.n ∨ s.opb.toNat ≥ s.cfg.n →
      exec .seqCmp s = .next { s with status := .erange })

/-- R454, corner cases: swapping the operands swaps LT and GT; EQ, LT and GT exclude each other; one of them
holds when N is odd; and none holds exactly when the operands are N/2 apart. -/
def Obligations.SeqCmpIsACircularOrder : Prop :=
  ∀ s : State, s.cfg.wf → s.opa.toNat < s.cfg.n → s.opb.toNat < s.cfg.n →
    ∃ t u, exec .seqCmp s = .next t ∧ exec .seqCmp { s with opa := s.opb, opb := s.opa } = .next u ∧
      t.res.getLsbD 2 = u.res.getLsbD 1 ∧ t.res.getLsbD 0 = u.res.getLsbD 0 ∧
      (t.res = 0#32 ∨ t.res = 1#32 ∨ t.res = 2#32 ∨ t.res = 4#32) ∧
      (s.cfg.n % 2 = 1 → t.res ≠ 0#32) ∧
      (t.res = 0#32 ↔ 2 * s.opa.toNat + s.cfg.n = 2 * s.opb.toNat ∨
        2 * s.opb.toNat + s.cfg.n = 2 * s.opa.toNat)

/-- R455: SEQ_INWIN whole: RES is 1 exactly when the distance is below the span, that is, when the value is
one of `base, base+1, …, base+span-1` taken mod N, and 0 otherwise. -/
def Obligations.SeqInwinRule : Prop :=
  decodeCommand 0x00000006#32 = .ok .seqInwin ∧
  ∀ s : State, s.cfg.wf →
    (s.opa.toNat < s.cfg.n → s.opb.toNat < s.cfg.n →
      ∃ t, exec .seqInwin s = .next t ∧ t = { s with res := t.res, status := .ok } ∧
        (t.res = 0#32 ∨ t.res = 1#32) ∧
        (t.res = 1#32 ↔
          ((s.opa.toNat : Int) - (s.opb.toNat : Int)) % (s.cfg.n : Int) < (s.opc.toNat : Int)) ∧
        (t.res = 1#32 ↔ ∃ k, k < s.opc.toNat ∧ s.opa.toNat = (s.opb.toNat + k) % s.cfg.n)) ∧
    (s.opa.toNat ≥ s.cfg.n ∨ s.opb.toNat ≥ s.cfg.n →
      exec .seqInwin s = .next { s with status := .erange })

/-- R456: END_SEQ whole: SYN and FIN each add 1, ELEN before ERANGE, and ACK plays no part. -/
def Obligations.EndSeqRule : Prop :=
  decodeCommand 0x00000007#32 = .ok .endSeq ∧
  ∀ s : State, s.cfg.wf →
    (s.len.toNat > s.cfg.cap → exec .endSeq s = .next { s with status := .elen }) ∧
    (s.len.toNat ≤ s.cfg.cap → s.seq.toNat ≥ s.cfg.n → exec .endSeq s = .next { s with status := .erange }) ∧
    (s.len.toNat ≤ s.cfg.cap → s.seq.toNat < s.cfg.n →
      ∃ t, exec .endSeq s = .next t ∧ t = { s with res := t.res, status := .ok } ∧
        t.res.toNat =
          (s.seq.toNat + s.len.toNat + (if s.flags.getLsbD 0 then 1 else 0) +
            (if s.flags.getLsbD 1 then 1 else 0)) % s.cfg.n)

/-- R457, first law, which the spec derives: adding twice is adding once, `SEQ_ADD(SEQ_ADD(a, n), m) =
SEQ_ADD(a, n + m)`, for counts whose sum OPB can hold. -/
def Obligations.SeqAddComposes : Prop :=
  ∀ (s : State) (a n m : Word), s.cfg.wf → a.toNat < s.cfg.n → n.toNat + m.toNat < 2 ^ 32 →
    ∃ t u v, exec .seqAdd { s with opa := a, opb := n } = .next t ∧
      exec .seqAdd { t with opa := t.res, opb := m } = .next u ∧
      exec .seqAdd { s with opa := a, opb := n + m } = .next v ∧
      u.status = .ok ∧ v.status = .ok ∧ u.res = v.res

/-- R457, second and third laws, which the spec derives: SEQ_SUB undoes SEQ_ADD up to whole turns, and
SEQ_ADD undoes SEQ_SUB. -/
def Obligations.SeqSubAndSeqAddUndoEachOther : Prop :=
  ∀ (s : State) (a b n : Word), s.cfg.wf → a.toNat < s.cfg.n → b.toNat < s.cfg.n →
    (∃ t u, exec .seqAdd { s with opa := a, opb := n } = .next t ∧
      exec .seqSub { t with opa := t.res, opb := a } = .next u ∧
      u.status = .ok ∧ u.res.toNat = n.toNat % s.cfg.n) ∧
    (∃ t u, exec .seqSub { s with opa := a, opb := b } = .next t ∧
      exec .seqAdd { t with opa := b, opb := t.res } = .next u ∧ u.status = .ok ∧ u.res = a)

/-- R457, last three laws, which the spec derives: EQ is equality, SEQ_INWIN compares SEQ_SUB with the span,
and END_SEQ of a data segment is SEQ_ADD of SEQ and LEN. -/
def Obligations.SeqCommandsAgree : Prop :=
  ∀ s : State, s.cfg.wf →
    (s.opa.toNat < s.cfg.n → s.opb.toNat < s.cfg.n →
      (∃ t, exec .seqCmp s = .next t ∧ (t.res.getLsbD 0 = true ↔ s.opa = s.opb)) ∧
      (∃ t u, exec .seqInwin s = .next t ∧ exec .seqSub s = .next u ∧
        (t.res = 1#32 ↔ u.res.toNat < s.opc.toNat))) ∧
    (s.seq.toNat < s.cfg.n → s.len.toNat ≤ s.cfg.cap → s.flags.getLsbD 0 = false →
      s.flags.getLsbD 1 = false →
      ∃ t u, exec .endSeq s = .next t ∧
        exec .seqAdd { s with opa := s.seq.setWidth 32, opb := s.len } = .next u ∧ t.res = u.res)

/-- C4 of 90_conflicts.md with R454, R456 and R708: the number of the segment after a data segment with data,
which is its END_SEQ, comes after its own number in circular order, when the segment is shorter than N/2. -/
def Obligations.SuccessiveSegmentsIncrease : Prop :=
  ∀ s : State, s.cfg.wf → s.seq.toNat < s.cfg.n → s.len.toNat ≤ s.cfg.cap →
    s.flags.getLsbD 0 = false → s.flags.getLsbD 1 = false →
    0 < s.len.toNat → 2 * s.len.toNat < s.cfg.n →
      ∃ t u, exec .endSeq s = .next t ∧
        exec .seqCmp { t with opa := s.seq.setWidth 32, opb := t.res } = .next u ∧
        u.status = .ok ∧ u.res = 2#32

/-! ### Status -/

/-- R603, R604, R606: the status of every command, with ELEN before ERANGE; an illegal word reports EOP and
checks nothing else. -/
def Obligations.CommandStatusAndPriority : Prop :=
  (∀ (s : State) (w : Word) (e : DecodeError), decodeCommand w = .error e →
    exec (.regWrite 0x00#30 w) s = .next { s with status := .eop }) ∧
  ∀ (c : Command) (s : State), ∃ t, exec c.toInstr s = .next t ∧
    ((∃ l, lengthChecked s c = some l ∧ l > s.cfg.cap) → t.status = .elen) ∧
    (¬ (∃ l, lengthChecked s c = some l ∧ l > s.cfg.cap) → (∃ v ∈ valuesChecked s c, v ≥ s.cfg.n) →
      t.status = .erange) ∧
    (¬ (∃ l, lengthChecked s c = some l ∧ l > s.cfg.cap) → ¬ (∃ v ∈ valuesChecked s c, v ≥ s.cfg.n) →
      t.status = .ok)

/-- R601: a command that fails writes STATUS, PARSE also the header registers, and nothing else: never RES,
never FB. -/
def Obligations.FailingCommandWritesOnlyStatus : Prop :=
  ∀ (c : Command) (s t : State), exec c.toInstr s = .next t → t.status ≠ .ok →
    (c ≠ .parse → t = { s with status := t.status }) ∧
    (c = .parse → t =
      { s with
        seq := BitVec.ofNat 16 (s.memRead 0 2), ack := BitVec.ofNat 16 (s.memRead 2 2),
        flags := s.decodeFlags, len := BitVec.ofNat 32 (s.memRead 8 4), status := t.status })

/-- R607: STATUS is rewritten by every CMD write and keeps nothing of its old value; and no step changes it
but a CMD write and a reset. -/
def Obligations.StatusIsWrittenByEveryCommandOnly : Prop :=
  (∀ (s : State) (w : Word) (c : StatusCode),
    exec (.regWrite 0x00#30 w) { s with status := c } = exec (.regWrite 0x00#30 w) s) ∧
  (∀ (s t : State) (e : HostEvent) (rest : List HostEvent), s.program = e :: rest → step s = .next t →
    t.status ≠ s.status → e = .reset ∨ ∃ w, IsCmdWrite e w)

/-- R111: no step changes RES but a reset and a CMD write of one of the words 3 to 7 that reports OK. -/
def Obligations.ResIsWrittenBySuccessfulSequenceCommandsOnly : Prop :=
  ∀ (s t : State) (e : HostEvent) (rest : List HostEvent), s.program = e :: rest → step s = .next t →
    t.res ≠ s.res →
      e = .reset ∨ ∃ w, IsCmdWrite e w ∧ 3 ≤ w.toNat ∧ w.toNat ≤ 7 ∧ t.status = .ok

/-! ### Whole-machine rules -/

/-- R702, R117 to R120: no step, reset among them, changes the parameters or what a CFG register reads. -/
def Obligations.ParametersNeverChange : Prop :=
  ∀ s t : State, step s = .next t →
    t.cfg = s.cfg ∧ t.readReg .cfgN = s.readReg .cfgN ∧ t.readReg .cfgCap = s.readReg .cfgCap ∧
      t.readReg .cfgHdr = 12#32 ∧ t.readReg .cfgOrder = s.readReg .cfgOrder

/-- R211, which the spec derives: a read, of whatever register, byte or width, changes nothing of the
framer's: of a run's observation (R13) it adds its value to the reads and leaves the registers and FB. -/
def Obligations.ReadsHaveNoSideEffect : Prop :=
  ∀ (s t : State) (width : Nat) (off : Word), portAccess (.read width off) s = .next t →
    ∃ v, t = { s with returned := s.returned ++ [v] } ∧
      observe t = { observe s with reads := s.returned ++ [v] }

/-- R211, which the spec derives: writing the same CMD value twice in a row leaves the same state as writing
it once, legal word or not. The written bytes are in their one form, as every reachable state's are. -/
def Obligations.CmdWriteTwiceIsCmdWriteOnce : Prop :=
  ∀ (s : State) (w : Word), Memory.wf s.fb →
    ∃ t, exec (.regWrite 0x00#30 w) s = .next t ∧ exec (.regWrite 0x00#30 w) t = .next t

/-- R115, R306, I-3: a command is a function of the registers and the header bytes: two states that agree on
those, whatever their payload bytes and their hosts, agree on them after it, and it leaves every payload byte
alone. -/
def Obligations.PayloadNeverMatters : Prop :=
  ∀ (c : Command) (s t : State), SameRegisters s t → SameHeader s t →
    ∃ s' t', exec c.toInstr s = .next s' ∧ exec c.toInstr t = .next t' ∧
      SameRegisters s' t' ∧ SameHeader s' t' ∧
      (∀ i, 12 ≤ i → s'.fbByte i = s.fbByte i ∧ t'.fbByte i = t.fbByte i)

/-- R700, R702: the registers after reset, for every block and every power-up; FB lists nothing, so that every
byte of it is the unspecified byte of that power-up (log 2). -/
def Obligations.ResetState : Prop :=
  ∀ (p : Params) (draw : Nat) (r : Reg),
    (r ≠ .cfgN → r ≠ .cfgCap → r ≠ .cfgHdr → r ≠ .cfgOrder → (State.resetWith p draw).readReg r = 0#32) ∧
    (State.resetWith p draw).readReg .cfgN = BitVec.ofNat 32 p.n ∧
    (State.resetWith p draw).readReg .cfgCap = BitVec.ofNat 32 p.cap ∧
    (State.resetWith p draw).readReg .cfgHdr = 12#32 ∧
    (State.resetWith p draw).readReg .cfgOrder = (if p.order = .be then 1#32 else 0#32) ∧
    ∀ i, (State.resetWith p draw).fbByte i = Config.fbPowerUp draw i

/-- R700, R702: a reset at any time leaves the reset registers and the same parameters, with FB unspecified
anew. That the host's own events and what it has read stay with it is the model's choice (log 9). -/
def Obligations.ResetEventResets : Prop :=
  ∀ (s : State) (rest : List HostEvent), s.program = .reset :: rest →
    ∃ t, step s = .next t ∧ t.cfg = s.cfg ∧
      SameRegisters t (State.resetWith s.cfg t.powerUp) ∧ t.fb = [] ∧ s.powerUp < t.powerUp ∧
      t.program = rest ∧ t.returned = s.returned

/-- The invariant holds after reset, for every block with legal parameters (R6, R700). -/
def Obligations.ResetMeetsTheInvariant : Prop :=
  Inv State.reset ∧ ∀ (p : Params) (draw : Nat), p.wf → Inv (State.resetWith p draw)

/-- From every state that meets the invariant, every step that answers a next state keeps it: legal
parameters, the written bytes in their one form and inside FB, RES a value the commands can produce. -/
def Obligations.StepKeepsTheInvariant : Prop :=
  ∀ s t : State, Inv s → step s = .next t → Inv t

/-- R610, R13: a host whose every event is one the port accepts runs to the end of its program: no fault, no
refusal, whatever the data, the commands and the frame buffer hold. -/
def Obligations.AcceptedProgramsRunToTheirEnd : Prop :=
  ∀ s : State, (∀ e ∈ s.program, AcceptedEvent s.cfg e) →
    ∃ t, Sys2Proof.core.run s.program.length s = .next t ∧ t.program = []

/-- R610, R13: the first event whose access the port does not accept, a read or a write access or a record of
any of the four transactions, is refused with the BusError of its offset, whatever stood before and after it.
That the run ends there, however many steps it is given, is the model's choice, which R610 offers (DESIGN
CHOICE, log 6). -/
def Obligations.RunEndsAtTheFirstBusError : Prop :=
  ∀ (s : State) (before after : List HostEvent) (e : HostEvent) (width off steps : Nat),
    s.program = before ++ e :: after →
    (∀ e' ∈ before, AcceptedEvent s.cfg e') → accessOf e = some (width, off) → ¬ Accepted s.cfg width off →
      Sys2Proof.core.run (before.length + 1 + steps) s = .fault (.busError off)
end

