-- ==== Sys2Proof/Laws/Memory.lean ====
section
/-! SUPPORT. Laws/Memory.lean: the list of written bytes: read after write, the one form, the indices. -/

namespace Sys2Proof.Machine

/-- A listed index reads as written: no entry equals what an unlisted index reads as. -/
theorem Memory.read_isSome_iff (m : Memory) (i : Nat) :
    (Memory.read m i).isSome ↔ ∃ b, (i, b) ∈ m := by
  induction m with
  | nil => simp [Memory.read]
  | cons c rest ih =>
    obtain ⟨j, b⟩ := c
    by_cases h : i = j
    · subst h; simp [Memory.read]
    · simp [Memory.read, h, ih]

@[simp] theorem Memory.read_write_same (m : Memory) (i : Nat) (b : Byte) :
    Memory.read (Memory.write m i b) i = some b := by
  induction m with
  | nil => simp [Memory.write, Memory.read]
  | cons c rest ih =>
    obtain ⟨j, d⟩ := c
    by_cases hlt : i < j
    · simp [Memory.write, Memory.read, hlt]
    · by_cases heq : i = j
      · subst heq; simp [Memory.write, Memory.read]
      · simp [Memory.write, Memory.read, hlt, heq, ih]

theorem Memory.read_write_ne (m : Memory) {i k : Nat} (b : Byte) (h : k ≠ i) :
    Memory.read (Memory.write m i b) k = Memory.read m k := by
  induction m with
  | nil => simp [Memory.write, Memory.read, h]
  | cons c rest ih =>
    obtain ⟨j, d⟩ := c
    by_cases hlt : i < j
    · simp [Memory.write, Memory.read, hlt, h]
    · by_cases heq : i = j
      · subst heq; simp [Memory.write, Memory.read, h]
      · simp [Memory.write, Memory.read, hlt, heq, ih]

/-- An entry after a write is the written one or was there before. -/
theorem Memory.mem_write {m : Memory} {i : Nat} {b : Byte} {c : Host.Cell}
    (h : c ∈ Memory.write m i b) : c = (i, b) ∨ c ∈ m := by
  induction m with
  | nil => simpa [Memory.write] using h
  | cons d rest ih =>
    obtain ⟨j, e⟩ := d
    by_cases hlt : i < j
    · simpa [Memory.write, hlt] using h
    · by_cases heq : i = j
      · subst heq
        simp [Memory.write] at h
        grind
      · simp [Memory.write, hlt, heq] at h
        grind

/-- A write keeps the indices strictly rising. -/
theorem Memory.write_wf {m : Memory} (h : Memory.wf m) (i : Nat) (b : Byte) :
    Memory.wf (Memory.write m i b) := by
  induction m with
  | nil => simp [Memory.write]
  | cons c rest ih =>
    obtain ⟨j, d⟩ := c
    rw [Memory.wf, List.pairwise_cons] at h
    obtain ⟨hj, hrest⟩ := h
    by_cases hlt : i < j
    · simp only [Memory.write, hlt, ↓reduceIte, List.pairwise_cons]
      refine ⟨fun a ha => ?_, hj, hrest⟩
      rcases List.mem_cons.mp ha with rfl | ha
      · exact hlt
      · exact lt_trans hlt (hj a ha)
    · by_cases heq : i = j
      · subst heq
        simp only [Memory.write, lt_irrefl, ↓reduceIte, List.pairwise_cons]
        exact ⟨hj, hrest⟩
      · simp only [Memory.write, hlt, heq, ↓reduceIte, List.pairwise_cons]
        refine ⟨fun a ha => ?_, ih hrest⟩
        rcases Memory.mem_write ha with rfl | ha
        · show j < i
          omega
        · exact hj a ha

/-- Writing a run of bytes keeps the indices strictly rising. -/
theorem Memory.writeList_wf {m : Memory} (h : Memory.wf m) (i : Nat) (bs : List Byte) :
    Memory.wf (Memory.writeList m i bs) := by
  induction bs generalizing m i with
  | nil => exact h
  | cons b bs ih => exact ih (Memory.write_wf h i b) (i + 1)

/-- An entry after a run of writes lies in the run or was there before. -/
theorem Memory.mem_writeList {m : Memory} {i : Nat} {bs : List Byte} {c : Host.Cell}
    (h : c ∈ Memory.writeList m i bs) : (i ≤ c.1 ∧ c.1 < i + bs.length) ∨ c ∈ m := by
  induction bs generalizing m i with
  | nil => exact .inr h
  | cons b bs ih =>
    rcases ih h with hin | hin
    · left; simp only [List.length_cons]; omega
    · rcases Memory.mem_write hin with rfl | hin
      · left; simp only [List.length_cons]; omega
      · exact .inr hin

/-- What an index reads as after a run of writes: the run's byte inside it, as before outside it. -/
theorem Memory.read_writeList (m : Memory) (i : Nat) (bs : List Byte) (k : Nat) :
    Memory.read (Memory.writeList m i bs) k =
      if i ≤ k ∧ k < i + bs.length then bs[k - i]? else Memory.read m k := by
  induction bs generalizing m i with
  | nil =>
    have : ¬ (i ≤ k ∧ k < i + ([] : List Byte).length) := by simp
    rw [if_neg this]; rfl
  | cons b bs ih =>
    rw [Memory.writeList, ih]
    by_cases hin : i + 1 ≤ k ∧ k < i + 1 + bs.length
    · have hin' : i ≤ k ∧ k < i + (b :: bs).length := by simp only [List.length_cons]; omega
      rw [if_pos hin, if_pos hin']
      obtain ⟨d, rfl⟩ : ∃ d, k = i + 1 + d := ⟨k - (i + 1), by omega⟩
      have h1 : i + 1 + d - (i + 1) = d := by omega
      have h2 : i + 1 + d - i = d + 1 := by omega
      rw [h1, h2, List.getElem?_cons_succ]
    · rw [if_neg hin]
      by_cases hk : k = i
      · subst hk
        have hin' : k ≤ k ∧ k < k + (b :: bs).length := by simp only [List.length_cons]; omega
        rw [if_pos hin', Memory.read_write_same]; simp
      · have hin' : ¬ (i ≤ k ∧ k < i + (b :: bs).length) := by simp only [List.length_cons]; omega
        rw [if_neg hin', Memory.read_write_ne m b hk]

end Sys2Proof.Machine
end

