-- ==== Sys2Proof/Laws/State.lean ====
section
/-! SUPPORT. Laws/State.lean: one lemma per field per update of State, true by rfl, so that no later proof
unfolds a record update. -/

namespace Sys2Proof.Machine

/-! ### withSeq -/

@[simp] theorem State.withSeq_cfg (s : State) (v : Half) : (s.withSeq v).cfg = s.cfg := rfl
@[simp] theorem State.withSeq_seq (s : State) (v : Half) : (s.withSeq v).seq = v := rfl
@[simp] theorem State.withSeq_ack (s : State) (v : Half) : (s.withSeq v).ack = s.ack := rfl
@[simp] theorem State.withSeq_flags (s : State) (v : Half) : (s.withSeq v).flags = s.flags := rfl
@[simp] theorem State.withSeq_len (s : State) (v : Half) : (s.withSeq v).len = s.len := rfl
@[simp] theorem State.withSeq_status (s : State) (v : Half) : (s.withSeq v).status = s.status := rfl
@[simp] theorem State.withSeq_opa (s : State) (v : Half) : (s.withSeq v).opa = s.opa := rfl
@[simp] theorem State.withSeq_opb (s : State) (v : Half) : (s.withSeq v).opb = s.opb := rfl
@[simp] theorem State.withSeq_opc (s : State) (v : Half) : (s.withSeq v).opc = s.opc := rfl
@[simp] theorem State.withSeq_res (s : State) (v : Half) : (s.withSeq v).res = s.res := rfl
@[simp] theorem State.withSeq_fb (s : State) (v : Half) : (s.withSeq v).fb = s.fb := rfl
@[simp] theorem State.withSeq_powerUp (s : State) (v : Half) : (s.withSeq v).powerUp = s.powerUp := rfl
@[simp] theorem State.withSeq_program (s : State) (v : Half) : (s.withSeq v).program = s.program := rfl
@[simp] theorem State.withSeq_returned (s : State) (v : Half) : (s.withSeq v).returned = s.returned := rfl

/-! ### withAck -/

@[simp] theorem State.withAck_cfg (s : State) (v : Half) : (s.withAck v).cfg = s.cfg := rfl
@[simp] theorem State.withAck_seq (s : State) (v : Half) : (s.withAck v).seq = s.seq := rfl
@[simp] theorem State.withAck_ack (s : State) (v : Half) : (s.withAck v).ack = v := rfl
@[simp] theorem State.withAck_flags (s : State) (v : Half) : (s.withAck v).flags = s.flags := rfl
@[simp] theorem State.withAck_len (s : State) (v : Half) : (s.withAck v).len = s.len := rfl
@[simp] theorem State.withAck_status (s : State) (v : Half) : (s.withAck v).status = s.status := rfl
@[simp] theorem State.withAck_opa (s : State) (v : Half) : (s.withAck v).opa = s.opa := rfl
@[simp] theorem State.withAck_opb (s : State) (v : Half) : (s.withAck v).opb = s.opb := rfl
@[simp] theorem State.withAck_opc (s : State) (v : Half) : (s.withAck v).opc = s.opc := rfl
@[simp] theorem State.withAck_res (s : State) (v : Half) : (s.withAck v).res = s.res := rfl
@[simp] theorem State.withAck_fb (s : State) (v : Half) : (s.withAck v).fb = s.fb := rfl
@[simp] theorem State.withAck_powerUp (s : State) (v : Half) : (s.withAck v).powerUp = s.powerUp := rfl
@[simp] theorem State.withAck_program (s : State) (v : Half) : (s.withAck v).program = s.program := rfl
@[simp] theorem State.withAck_returned (s : State) (v : Half) : (s.withAck v).returned = s.returned := rfl

/-! ### withFlags -/

@[simp] theorem State.withFlags_cfg (s : State) (v : BitVec 4) : (s.withFlags v).cfg = s.cfg := rfl
@[simp] theorem State.withFlags_seq (s : State) (v : BitVec 4) : (s.withFlags v).seq = s.seq := rfl
@[simp] theorem State.withFlags_ack (s : State) (v : BitVec 4) : (s.withFlags v).ack = s.ack := rfl
@[simp] theorem State.withFlags_flags (s : State) (v : BitVec 4) : (s.withFlags v).flags = v := rfl
@[simp] theorem State.withFlags_len (s : State) (v : BitVec 4) : (s.withFlags v).len = s.len := rfl
@[simp] theorem State.withFlags_status (s : State) (v : BitVec 4) : (s.withFlags v).status = s.status := rfl
@[simp] theorem State.withFlags_opa (s : State) (v : BitVec 4) : (s.withFlags v).opa = s.opa := rfl
@[simp] theorem State.withFlags_opb (s : State) (v : BitVec 4) : (s.withFlags v).opb = s.opb := rfl
@[simp] theorem State.withFlags_opc (s : State) (v : BitVec 4) : (s.withFlags v).opc = s.opc := rfl
@[simp] theorem State.withFlags_res (s : State) (v : BitVec 4) : (s.withFlags v).res = s.res := rfl
@[simp] theorem State.withFlags_fb (s : State) (v : BitVec 4) : (s.withFlags v).fb = s.fb := rfl
@[simp] theorem State.withFlags_powerUp (s : State) (v : BitVec 4) :
    (s.withFlags v).powerUp = s.powerUp := rfl
@[simp] theorem State.withFlags_program (s : State) (v : BitVec 4) :
    (s.withFlags v).program = s.program := rfl
@[simp] theorem State.withFlags_returned (s : State) (v : BitVec 4) :
    (s.withFlags v).returned = s.returned := rfl

/-! ### withLen -/

@[simp] theorem State.withLen_cfg (s : State) (v : Word) : (s.withLen v).cfg = s.cfg := rfl
@[simp] theorem State.withLen_seq (s : State) (v : Word) : (s.withLen v).seq = s.seq := rfl
@[simp] theorem State.withLen_ack (s : State) (v : Word) : (s.withLen v).ack = s.ack := rfl
@[simp] theorem State.withLen_flags (s : State) (v : Word) : (s.withLen v).flags = s.flags := rfl
@[simp] theorem State.withLen_len (s : State) (v : Word) : (s.withLen v).len = v := rfl
@[simp] theorem State.withLen_status (s : State) (v : Word) : (s.withLen v).status = s.status := rfl
@[simp] theorem State.withLen_opa (s : State) (v : Word) : (s.withLen v).opa = s.opa := rfl
@[simp] theorem State.withLen_opb (s : State) (v : Word) : (s.withLen v).opb = s.opb := rfl
@[simp] theorem State.withLen_opc (s : State) (v : Word) : (s.withLen v).opc = s.opc := rfl
@[simp] theorem State.withLen_res (s : State) (v : Word) : (s.withLen v).res = s.res := rfl
@[simp] theorem State.withLen_fb (s : State) (v : Word) : (s.withLen v).fb = s.fb := rfl
@[simp] theorem State.withLen_powerUp (s : State) (v : Word) : (s.withLen v).powerUp = s.powerUp := rfl
@[simp] theorem State.withLen_program (s : State) (v : Word) : (s.withLen v).program = s.program := rfl
@[simp] theorem State.withLen_returned (s : State) (v : Word) : (s.withLen v).returned = s.returned := rfl

/-! ### withStatus -/

@[simp] theorem State.withStatus_cfg (s : State) (v : StatusCode) : (s.withStatus v).cfg = s.cfg := rfl
@[simp] theorem State.withStatus_seq (s : State) (v : StatusCode) : (s.withStatus v).seq = s.seq := rfl
@[simp] theorem State.withStatus_ack (s : State) (v : StatusCode) : (s.withStatus v).ack = s.ack := rfl
@[simp] theorem State.withStatus_flags (s : State) (v : StatusCode) :
    (s.withStatus v).flags = s.flags := rfl
@[simp] theorem State.withStatus_len (s : State) (v : StatusCode) : (s.withStatus v).len = s.len := rfl
@[simp] theorem State.withStatus_status (s : State) (v : StatusCode) : (s.withStatus v).status = v := rfl
@[simp] theorem State.withStatus_opa (s : State) (v : StatusCode) : (s.withStatus v).opa = s.opa := rfl
@[simp] theorem State.withStatus_opb (s : State) (v : StatusCode) : (s.withStatus v).opb = s.opb := rfl
@[simp] theorem State.withStatus_opc (s : State) (v : StatusCode) : (s.withStatus v).opc = s.opc := rfl
@[simp] theorem State.withStatus_res (s : State) (v : StatusCode) : (s.withStatus v).res = s.res := rfl
@[simp] theorem State.withStatus_fb (s : State) (v : StatusCode) : (s.withStatus v).fb = s.fb := rfl
@[simp] theorem State.withStatus_powerUp (s : State) (v : StatusCode) :
    (s.withStatus v).powerUp = s.powerUp := rfl
@[simp] theorem State.withStatus_program (s : State) (v : StatusCode) :
    (s.withStatus v).program = s.program := rfl
@[simp] theorem State.withStatus_returned (s : State) (v : StatusCode) :
    (s.withStatus v).returned = s.returned := rfl

/-! ### withOpa -/

@[simp] theorem State.withOpa_cfg (s : State) (v : Word) : (s.withOpa v).cfg = s.cfg := rfl
@[simp] theorem State.withOpa_seq (s : State) (v : Word) : (s.withOpa v).seq = s.seq := rfl
@[simp] theorem State.withOpa_ack (s : State) (v : Word) : (s.withOpa v).ack = s.ack := rfl
@[simp] theorem State.withOpa_flags (s : State) (v : Word) : (s.withOpa v).flags = s.flags := rfl
@[simp] theorem State.withOpa_len (s : State) (v : Word) : (s.withOpa v).len = s.len := rfl
@[simp] theorem State.withOpa_status (s : State) (v : Word) : (s.withOpa v).status = s.status := rfl
@[simp] theorem State.withOpa_opa (s : State) (v : Word) : (s.withOpa v).opa = v := rfl
@[simp] theorem State.withOpa_opb (s : State) (v : Word) : (s.withOpa v).opb = s.opb := rfl
@[simp] theorem State.withOpa_opc (s : State) (v : Word) : (s.withOpa v).opc = s.opc := rfl
@[simp] theorem State.withOpa_res (s : State) (v : Word) : (s.withOpa v).res = s.res := rfl
@[simp] theorem State.withOpa_fb (s : State) (v : Word) : (s.withOpa v).fb = s.fb := rfl
@[simp] theorem State.withOpa_powerUp (s : State) (v : Word) : (s.withOpa v).powerUp = s.powerUp := rfl
@[simp] theorem State.withOpa_program (s : State) (v : Word) : (s.withOpa v).program = s.program := rfl
@[simp] theorem State.withOpa_returned (s : State) (v : Word) : (s.withOpa v).returned = s.returned := rfl

/-! ### withOpb -/

@[simp] theorem State.withOpb_cfg (s : State) (v : Word) : (s.withOpb v).cfg = s.cfg := rfl
@[simp] theorem State.withOpb_seq (s : State) (v : Word) : (s.withOpb v).seq = s.seq := rfl
@[simp] theorem State.withOpb_ack (s : State) (v : Word) : (s.withOpb v).ack = s.ack := rfl
@[simp] theorem State.withOpb_flags (s : State) (v : Word) : (s.withOpb v).flags = s.flags := rfl
@[simp] theorem State.withOpb_len (s : State) (v : Word) : (s.withOpb v).len = s.len := rfl
@[simp] theorem State.withOpb_status (s : State) (v : Word) : (s.withOpb v).status = s.status := rfl
@[simp] theorem State.withOpb_opa (s : State) (v : Word) : (s.withOpb v).opa = s.opa := rfl
@[simp] theorem State.withOpb_opb (s : State) (v : Word) : (s.withOpb v).opb = v := rfl
@[simp] theorem State.withOpb_opc (s : State) (v : Word) : (s.withOpb v).opc = s.opc := rfl
@[simp] theorem State.withOpb_res (s : State) (v : Word) : (s.withOpb v).res = s.res := rfl
@[simp] theorem State.withOpb_fb (s : State) (v : Word) : (s.withOpb v).fb = s.fb := rfl
@[simp] theorem State.withOpb_powerUp (s : State) (v : Word) : (s.withOpb v).powerUp = s.powerUp := rfl
@[simp] theorem State.withOpb_program (s : State) (v : Word) : (s.withOpb v).program = s.program := rfl
@[simp] theorem State.withOpb_returned (s : State) (v : Word) : (s.withOpb v).returned = s.returned := rfl

/-! ### withOpc -/

@[simp] theorem State.withOpc_cfg (s : State) (v : Word) : (s.withOpc v).cfg = s.cfg := rfl
@[simp] theorem State.withOpc_seq (s : State) (v : Word) : (s.withOpc v).seq = s.seq := rfl
@[simp] theorem State.withOpc_ack (s : State) (v : Word) : (s.withOpc v).ack = s.ack := rfl
@[simp] theorem State.withOpc_flags (s : State) (v : Word) : (s.withOpc v).flags = s.flags := rfl
@[simp] theorem State.withOpc_len (s : State) (v : Word) : (s.withOpc v).len = s.len := rfl
@[simp] theorem State.withOpc_status (s : State) (v : Word) : (s.withOpc v).status = s.status := rfl
@[simp] theorem State.withOpc_opa (s : State) (v : Word) : (s.withOpc v).opa = s.opa := rfl
@[simp] theorem State.withOpc_opb (s : State) (v : Word) : (s.withOpc v).opb = s.opb := rfl
@[simp] theorem State.withOpc_opc (s : State) (v : Word) : (s.withOpc v).opc = v := rfl
@[simp] theorem State.withOpc_res (s : State) (v : Word) : (s.withOpc v).res = s.res := rfl
@[simp] theorem State.withOpc_fb (s : State) (v : Word) : (s.withOpc v).fb = s.fb := rfl
@[simp] theorem State.withOpc_powerUp (s : State) (v : Word) : (s.withOpc v).powerUp = s.powerUp := rfl
@[simp] theorem State.withOpc_program (s : State) (v : Word) : (s.withOpc v).program = s.program := rfl
@[simp] theorem State.withOpc_returned (s : State) (v : Word) : (s.withOpc v).returned = s.returned := rfl

/-! ### withRes -/

@[simp] theorem State.withRes_cfg (s : State) (v : Word) : (s.withRes v).cfg = s.cfg := rfl
@[simp] theorem State.withRes_seq (s : State) (v : Word) : (s.withRes v).seq = s.seq := rfl
@[simp] theorem State.withRes_ack (s : State) (v : Word) : (s.withRes v).ack = s.ack := rfl
@[simp] theorem State.withRes_flags (s : State) (v : Word) : (s.withRes v).flags = s.flags := rfl
@[simp] theorem State.withRes_len (s : State) (v : Word) : (s.withRes v).len = s.len := rfl
@[simp] theorem State.withRes_status (s : State) (v : Word) : (s.withRes v).status = s.status := rfl
@[simp] theorem State.withRes_opa (s : State) (v : Word) : (s.withRes v).opa = s.opa := rfl
@[simp] theorem State.withRes_opb (s : State) (v : Word) : (s.withRes v).opb = s.opb := rfl
@[simp] theorem State.withRes_opc (s : State) (v : Word) : (s.withRes v).opc = s.opc := rfl
@[simp] theorem State.withRes_res (s : State) (v : Word) : (s.withRes v).res = v := rfl
@[simp] theorem State.withRes_fb (s : State) (v : Word) : (s.withRes v).fb = s.fb := rfl
@[simp] theorem State.withRes_powerUp (s : State) (v : Word) : (s.withRes v).powerUp = s.powerUp := rfl
@[simp] theorem State.withRes_program (s : State) (v : Word) : (s.withRes v).program = s.program := rfl
@[simp] theorem State.withRes_returned (s : State) (v : Word) : (s.withRes v).returned = s.returned := rfl

/-! ### withFb -/

@[simp] theorem State.withFb_cfg (s : State) (v : Memory) : (s.withFb v).cfg = s.cfg := rfl
@[simp] theorem State.withFb_seq (s : State) (v : Memory) : (s.withFb v).seq = s.seq := rfl
@[simp] theorem State.withFb_ack (s : State) (v : Memory) : (s.withFb v).ack = s.ack := rfl
@[simp] theorem State.withFb_flags (s : State) (v : Memory) : (s.withFb v).flags = s.flags := rfl
@[simp] theorem State.withFb_len (s : State) (v : Memory) : (s.withFb v).len = s.len := rfl
@[simp] theorem State.withFb_status (s : State) (v : Memory) : (s.withFb v).status = s.status := rfl
@[simp] theorem State.withFb_opa (s : State) (v : Memory) : (s.withFb v).opa = s.opa := rfl
@[simp] theorem State.withFb_opb (s : State) (v : Memory) : (s.withFb v).opb = s.opb := rfl
@[simp] theorem State.withFb_opc (s : State) (v : Memory) : (s.withFb v).opc = s.opc := rfl
@[simp] theorem State.withFb_res (s : State) (v : Memory) : (s.withFb v).res = s.res := rfl
@[simp] theorem State.withFb_fb (s : State) (v : Memory) : (s.withFb v).fb = v := rfl
@[simp] theorem State.withFb_powerUp (s : State) (v : Memory) : (s.withFb v).powerUp = s.powerUp := rfl
@[simp] theorem State.withFb_program (s : State) (v : Memory) : (s.withFb v).program = s.program := rfl
@[simp] theorem State.withFb_returned (s : State) (v : Memory) : (s.withFb v).returned = s.returned := rfl

/-! ### withProgram -/

@[simp] theorem State.withProgram_cfg (s : State) (v : List HostEvent) :
    (s.withProgram v).cfg = s.cfg := rfl
@[simp] theorem State.withProgram_seq (s : State) (v : List HostEvent) :
    (s.withProgram v).seq = s.seq := rfl
@[simp] theorem State.withProgram_ack (s : State) (v : List HostEvent) :
    (s.withProgram v).ack = s.ack := rfl
@[simp] theorem State.withProgram_flags (s : State) (v : List HostEvent) :
    (s.withProgram v).flags = s.flags := rfl
@[simp] theorem State.withProgram_len (s : State) (v : List HostEvent) :
    (s.withProgram v).len = s.len := rfl
@[simp] theorem State.withProgram_status (s : State) (v : List HostEvent) :
    (s.withProgram v).status = s.status := rfl
@[simp] theorem State.withProgram_opa (s : State) (v : List HostEvent) :
    (s.withProgram v).opa = s.opa := rfl
@[simp] theorem State.withProgram_opb (s : State) (v : List HostEvent) :
    (s.withProgram v).opb = s.opb := rfl
@[simp] theorem State.withProgram_opc (s : State) (v : List HostEvent) :
    (s.withProgram v).opc = s.opc := rfl
@[simp] theorem State.withProgram_res (s : State) (v : List HostEvent) :
    (s.withProgram v).res = s.res := rfl
@[simp] theorem State.withProgram_fb (s : State) (v : List HostEvent) : (s.withProgram v).fb = s.fb := rfl
@[simp] theorem State.withProgram_powerUp (s : State) (v : List HostEvent) :
    (s.withProgram v).powerUp = s.powerUp := rfl
@[simp] theorem State.withProgram_program (s : State) (v : List HostEvent) :
    (s.withProgram v).program = v := rfl
@[simp] theorem State.withProgram_returned (s : State) (v : List HostEvent) :
    (s.withProgram v).returned = s.returned := rfl

/-! ### give -/

@[simp] theorem State.give_cfg (s : State) (v : ReadValue) : (s.give v).cfg = s.cfg := rfl
@[simp] theorem State.give_seq (s : State) (v : ReadValue) : (s.give v).seq = s.seq := rfl
@[simp] theorem State.give_ack (s : State) (v : ReadValue) : (s.give v).ack = s.ack := rfl
@[simp] theorem State.give_flags (s : State) (v : ReadValue) : (s.give v).flags = s.flags := rfl
@[simp] theorem State.give_len (s : State) (v : ReadValue) : (s.give v).len = s.len := rfl
@[simp] theorem State.give_status (s : State) (v : ReadValue) : (s.give v).status = s.status := rfl
@[simp] theorem State.give_opa (s : State) (v : ReadValue) : (s.give v).opa = s.opa := rfl
@[simp] theorem State.give_opb (s : State) (v : ReadValue) : (s.give v).opb = s.opb := rfl
@[simp] theorem State.give_opc (s : State) (v : ReadValue) : (s.give v).opc = s.opc := rfl
@[simp] theorem State.give_res (s : State) (v : ReadValue) : (s.give v).res = s.res := rfl
@[simp] theorem State.give_fb (s : State) (v : ReadValue) : (s.give v).fb = s.fb := rfl
@[simp] theorem State.give_powerUp (s : State) (v : ReadValue) : (s.give v).powerUp = s.powerUp := rfl
@[simp] theorem State.give_program (s : State) (v : ReadValue) : (s.give v).program = s.program := rfl
@[simp] theorem State.give_returned (s : State) (v : ReadValue) :
    (s.give v).returned = s.returned ++ [v] := rfl

/-! ### fail -/

@[simp] theorem State.fail_cfg (s : State) (c : StatusCode) : (s.fail c).cfg = s.cfg := rfl
@[simp] theorem State.fail_seq (s : State) (c : StatusCode) : (s.fail c).seq = s.seq := rfl
@[simp] theorem State.fail_ack (s : State) (c : StatusCode) : (s.fail c).ack = s.ack := rfl
@[simp] theorem State.fail_flags (s : State) (c : StatusCode) : (s.fail c).flags = s.flags := rfl
@[simp] theorem State.fail_len (s : State) (c : StatusCode) : (s.fail c).len = s.len := rfl
@[simp] theorem State.fail_status (s : State) (c : StatusCode) : (s.fail c).status = c := rfl
@[simp] theorem State.fail_opa (s : State) (c : StatusCode) : (s.fail c).opa = s.opa := rfl
@[simp] theorem State.fail_opb (s : State) (c : StatusCode) : (s.fail c).opb = s.opb := rfl
@[simp] theorem State.fail_opc (s : State) (c : StatusCode) : (s.fail c).opc = s.opc := rfl
@[simp] theorem State.fail_res (s : State) (c : StatusCode) : (s.fail c).res = s.res := rfl
@[simp] theorem State.fail_fb (s : State) (c : StatusCode) : (s.fail c).fb = s.fb := rfl
@[simp] theorem State.fail_powerUp (s : State) (c : StatusCode) : (s.fail c).powerUp = s.powerUp := rfl
@[simp] theorem State.fail_program (s : State) (c : StatusCode) : (s.fail c).program = s.program := rfl
@[simp] theorem State.fail_returned (s : State) (c : StatusCode) : (s.fail c).returned = s.returned := rfl

/-! ### done -/

@[simp] theorem State.done_cfg (s : State) : s.done.cfg = s.cfg := rfl
@[simp] theorem State.done_seq (s : State) : s.done.seq = s.seq := rfl
@[simp] theorem State.done_ack (s : State) : s.done.ack = s.ack := rfl
@[simp] theorem State.done_flags (s : State) : s.done.flags = s.flags := rfl
@[simp] theorem State.done_len (s : State) : s.done.len = s.len := rfl
@[simp] theorem State.done_status (s : State) : s.done.status = .ok := rfl
@[simp] theorem State.done_opa (s : State) : s.done.opa = s.opa := rfl
@[simp] theorem State.done_opb (s : State) : s.done.opb = s.opb := rfl
@[simp] theorem State.done_opc (s : State) : s.done.opc = s.opc := rfl
@[simp] theorem State.done_res (s : State) : s.done.res = s.res := rfl
@[simp] theorem State.done_fb (s : State) : s.done.fb = s.fb := rfl
@[simp] theorem State.done_powerUp (s : State) : s.done.powerUp = s.powerUp := rfl
@[simp] theorem State.done_program (s : State) : s.done.program = s.program := rfl
@[simp] theorem State.done_returned (s : State) : s.done.returned = s.returned := rfl

/-! ### finish -/

@[simp] theorem State.finish_cfg (s : State) (v : Nat) : (s.finish v).cfg = s.cfg := rfl
@[simp] theorem State.finish_seq (s : State) (v : Nat) : (s.finish v).seq = s.seq := rfl
@[simp] theorem State.finish_ack (s : State) (v : Nat) : (s.finish v).ack = s.ack := rfl
@[simp] theorem State.finish_flags (s : State) (v : Nat) : (s.finish v).flags = s.flags := rfl
@[simp] theorem State.finish_len (s : State) (v : Nat) : (s.finish v).len = s.len := rfl
@[simp] theorem State.finish_status (s : State) (v : Nat) : (s.finish v).status = .ok := rfl
@[simp] theorem State.finish_opa (s : State) (v : Nat) : (s.finish v).opa = s.opa := rfl
@[simp] theorem State.finish_opb (s : State) (v : Nat) : (s.finish v).opb = s.opb := rfl
@[simp] theorem State.finish_opc (s : State) (v : Nat) : (s.finish v).opc = s.opc := rfl
@[simp] theorem State.finish_res (s : State) (v : Nat) : (s.finish v).res = BitVec.ofNat 32 v := rfl
@[simp] theorem State.finish_fb (s : State) (v : Nat) : (s.finish v).fb = s.fb := rfl
@[simp] theorem State.finish_powerUp (s : State) (v : Nat) : (s.finish v).powerUp = s.powerUp := rfl
@[simp] theorem State.finish_program (s : State) (v : Nat) : (s.finish v).program = s.program := rfl
@[simp] theorem State.finish_returned (s : State) (v : Nat) : (s.finish v).returned = s.returned := rfl

/-! ### setFbByte (all but the frame buffer) -/

@[simp] theorem State.setFbByte_cfg (s : State) (i : Nat) (b : Byte) : (s.setFbByte i b).cfg = s.cfg := rfl
@[simp] theorem State.setFbByte_seq (s : State) (i : Nat) (b : Byte) : (s.setFbByte i b).seq = s.seq := rfl
@[simp] theorem State.setFbByte_ack (s : State) (i : Nat) (b : Byte) : (s.setFbByte i b).ack = s.ack := rfl
@[simp] theorem State.setFbByte_flags (s : State) (i : Nat) (b : Byte) :
    (s.setFbByte i b).flags = s.flags := rfl
@[simp] theorem State.setFbByte_len (s : State) (i : Nat) (b : Byte) : (s.setFbByte i b).len = s.len := rfl
@[simp] theorem State.setFbByte_status (s : State) (i : Nat) (b : Byte) :
    (s.setFbByte i b).status = s.status := rfl
@[simp] theorem State.setFbByte_opa (s : State) (i : Nat) (b : Byte) : (s.setFbByte i b).opa = s.opa := rfl
@[simp] theorem State.setFbByte_opb (s : State) (i : Nat) (b : Byte) : (s.setFbByte i b).opb = s.opb := rfl
@[simp] theorem State.setFbByte_opc (s : State) (i : Nat) (b : Byte) : (s.setFbByte i b).opc = s.opc := rfl
@[simp] theorem State.setFbByte_res (s : State) (i : Nat) (b : Byte) : (s.setFbByte i b).res = s.res := rfl
@[simp] theorem State.setFbByte_powerUp (s : State) (i : Nat) (b : Byte) :
    (s.setFbByte i b).powerUp = s.powerUp := rfl
@[simp] theorem State.setFbByte_program (s : State) (i : Nat) (b : Byte) :
    (s.setFbByte i b).program = s.program := rfl
@[simp] theorem State.setFbByte_returned (s : State) (i : Nat) (b : Byte) :
    (s.setFbByte i b).returned = s.returned := rfl

/-! ### writeHeader (all but the frame buffer) -/

@[simp] theorem State.writeHeader_cfg (s : State) : s.writeHeader.cfg = s.cfg := rfl
@[simp] theorem State.writeHeader_seq (s : State) : s.writeHeader.seq = s.seq := rfl
@[simp] theorem State.writeHeader_ack (s : State) : s.writeHeader.ack = s.ack := rfl
@[simp] theorem State.writeHeader_flags (s : State) : s.writeHeader.flags = s.flags := rfl
@[simp] theorem State.writeHeader_len (s : State) : s.writeHeader.len = s.len := rfl
@[simp] theorem State.writeHeader_status (s : State) : s.writeHeader.status = s.status := rfl
@[simp] theorem State.writeHeader_opa (s : State) : s.writeHeader.opa = s.opa := rfl
@[simp] theorem State.writeHeader_opb (s : State) : s.writeHeader.opb = s.opb := rfl
@[simp] theorem State.writeHeader_opc (s : State) : s.writeHeader.opc = s.opc := rfl
@[simp] theorem State.writeHeader_res (s : State) : s.writeHeader.res = s.res := rfl
@[simp] theorem State.writeHeader_powerUp (s : State) : s.writeHeader.powerUp = s.powerUp := rfl
@[simp] theorem State.writeHeader_program (s : State) : s.writeHeader.program = s.program := rfl
@[simp] theorem State.writeHeader_returned (s : State) : s.writeHeader.returned = s.returned := rfl

/-! ### loadHeader -/

@[simp] theorem State.loadHeader_cfg (s : State) : s.loadHeader.cfg = s.cfg := rfl
@[simp] theorem State.loadHeader_seq (s : State) : s.loadHeader.seq = BitVec.ofNat 16 (s.memRead 0 2) := rfl
@[simp] theorem State.loadHeader_ack (s : State) : s.loadHeader.ack = BitVec.ofNat 16 (s.memRead 2 2) := rfl
@[simp] theorem State.loadHeader_flags (s : State) : s.loadHeader.flags = s.decodeFlags := rfl
@[simp] theorem State.loadHeader_len (s : State) : s.loadHeader.len = BitVec.ofNat 32 (s.memRead 8 4) := rfl
@[simp] theorem State.loadHeader_status (s : State) : s.loadHeader.status = s.status := rfl
@[simp] theorem State.loadHeader_opa (s : State) : s.loadHeader.opa = s.opa := rfl
@[simp] theorem State.loadHeader_opb (s : State) : s.loadHeader.opb = s.opb := rfl
@[simp] theorem State.loadHeader_opc (s : State) : s.loadHeader.opc = s.opc := rfl
@[simp] theorem State.loadHeader_res (s : State) : s.loadHeader.res = s.res := rfl
@[simp] theorem State.loadHeader_fb (s : State) : s.loadHeader.fb = s.fb := rfl
@[simp] theorem State.loadHeader_powerUp (s : State) : s.loadHeader.powerUp = s.powerUp := rfl
@[simp] theorem State.loadHeader_program (s : State) : s.loadHeader.program = s.program := rfl
@[simp] theorem State.loadHeader_returned (s : State) : s.loadHeader.returned = s.returned := rfl

/-! ### applyReset -/

@[simp] theorem State.applyReset_cfg (s : State) : s.applyReset.cfg = s.cfg := rfl
@[simp] theorem State.applyReset_seq (s : State) : s.applyReset.seq = 0#16 := rfl
@[simp] theorem State.applyReset_ack (s : State) : s.applyReset.ack = 0#16 := rfl
@[simp] theorem State.applyReset_flags (s : State) : s.applyReset.flags = 0#4 := rfl
@[simp] theorem State.applyReset_len (s : State) : s.applyReset.len = 0#32 := rfl
@[simp] theorem State.applyReset_status (s : State) : s.applyReset.status = .ok := rfl
@[simp] theorem State.applyReset_opa (s : State) : s.applyReset.opa = 0#32 := rfl
@[simp] theorem State.applyReset_opb (s : State) : s.applyReset.opb = 0#32 := rfl
@[simp] theorem State.applyReset_opc (s : State) : s.applyReset.opc = 0#32 := rfl
@[simp] theorem State.applyReset_res (s : State) : s.applyReset.res = 0#32 := rfl
@[simp] theorem State.applyReset_fb (s : State) : s.applyReset.fb = [] := rfl
@[simp] theorem State.applyReset_powerUp (s : State) : s.applyReset.powerUp = s.powerUp + 1 := rfl
@[simp] theorem State.applyReset_program (s : State) : s.applyReset.program = s.program := rfl
@[simp] theorem State.applyReset_returned (s : State) : s.applyReset.returned = s.returned := rfl

/-! ### Two states with the same frame buffer and power-up read the same bytes -/

theorem State.fbByte_congr {s t : State} (hf : s.fb = t.fb) (hp : s.powerUp = t.powerUp) (i : Nat) :
    s.fbByte i = t.fbByte i := by
  simp only [State.fbByte, hf, hp]

end Sys2Proof.Machine
end

