-- ==== Sys2Proof/Laws/Ops.lean ====
section
/-! SUPPORT. Laws/Ops.lean: the frame-buffer operations: what a byte, a field and a header read as after a
write, and the two directions of the byte order. -/

namespace Sys2Proof.Machine

/-! ### Bytes and their value -/

@[simp] theorem splitLE_length (k v : Nat) : (splitLE k v).length = k := by
  induction k generalizing v with
  | zero => rfl
  | succ k ih => simp [splitLE, ih]

@[simp] theorem splitBytes_length (o : ByteOrder) (k v : Nat) : (splitBytes o k v).length = k := by
  cases o <;> simp [splitBytes]

@[simp] theorem State.fbBytes_length (s : State) (i k : Nat) : (s.fbBytes i k).length = k := by
  induction k generalizing i with
  | zero => rfl
  | succ k ih => simp [State.fbBytes, ih]

theorem State.fbBytes_getElem? (s : State) (i k d : Nat) :
    (s.fbBytes i k)[d]? = if d < k then some (s.fbByte (i + d)) else none := by
  induction k generalizing i d with
  | zero => simp [State.fbBytes]
  | succ k ih =>
    cases d with
    | zero => simp [State.fbBytes]
    | succ d =>
      simp only [State.fbBytes, List.getElem?_cons_succ, ih]
      simp [Nat.add_assoc, Nat.add_comm 1 d]

/-- The bytes `FB[i .. i+k-1]` are a list when each index reads as its entry. -/
theorem State.fbBytes_eq_of {s : State} {i k : Nat} {bs : List Byte} (hl : bs.length = k)
    (h : ∀ d, d < k → bs[d]? = some (s.fbByte (i + d))) : s.fbBytes i k = bs := by
  apply List.ext_getElem?
  intro d
  rw [State.fbBytes_getElem?]
  by_cases hd : d < k
  · rw [if_pos hd, h d hd]
  · rw [if_neg hd, List.getElem?_eq_none (by omega)]

/-- Two states that agree on the bytes of a field read it alike. -/
theorem State.fbBytes_congr {s t : State} {i k : Nat}
    (h : ∀ d, i ≤ d → d < i + k → s.fbByte d = t.fbByte d) : s.fbBytes i k = t.fbBytes i k := by
  refine State.fbBytes_eq_of (by simp) fun d hd => ?_
  rw [State.fbBytes_getElem?, if_pos hd, h (i + d) (by omega) (by omega)]

theorem State.memRead_congr {s t : State} {i k : Nat} (hc : s.cfg = t.cfg)
    (h : ∀ d, i ≤ d → d < i + k → s.fbByte d = t.fbByte d) : s.memRead i k = t.memRead i k := by
  rw [State.memRead, State.memRead, hc, State.fbBytes_congr h]

theorem assembleLE_splitLE (k v : Nat) : assembleLE (splitLE k v) = v % 256 ^ k := by
  induction k generalizing v with
  | zero => simp [splitLE, assembleLE, Nat.mod_one]
  | succ k ih =>
    have h : v % 256 ^ (k + 1) = v % 256 + 256 * (v / 256 % 256 ^ k) := by
      rw [Nat.pow_succ', Nat.mod_mul]
    rw [splitLE, assembleLE, ih, h]
    simp

theorem splitLE_assembleLE (bs : List Byte) : splitLE bs.length (assembleLE bs) = bs := by
  induction bs with
  | nil => rfl
  | cons b bs ih =>
    have hb : b.toNat < 256 := b.isLt
    have h1 : (b.toNat + 256 * assembleLE bs) / 256 = assembleLE bs := by omega
    have h2 : BitVec.ofNat 8 (b.toNat + 256 * assembleLE bs) = b := by
      apply BitVec.eq_of_toNat_eq
      rw [BitVec.toNat_ofNat]
      omega
    rw [List.length_cons, assembleLE, splitLE, h1, h2, ih]

/-- A value written and read in the same order is itself, taken to the field's width. -/
theorem assemble_splitBytes (o : ByteOrder) (k v : Nat) : assemble o (splitBytes o k v) = v % 256 ^ k := by
  cases o <;> simp [assemble, splitBytes, assembleLE_splitLE]

/-- Bytes read and written in the same order are themselves. -/
theorem splitBytes_assemble (o : ByteOrder) (bs : List Byte) :
    splitBytes o bs.length (assemble o bs) = bs := by
  cases o with
  | le => exact splitLE_assembleLE bs
  | be =>
    have h := splitLE_assembleLE bs.reverse
    rw [List.length_reverse] at h
    rw [splitBytes, assemble, h, List.reverse_reverse]

theorem assembleLE_lt (bs : List Byte) : assembleLE bs < 256 ^ bs.length := by
  rw [← splitLE_assembleLE bs, assembleLE_splitLE, splitLE_length]
  exact Nat.mod_lt _ (Nat.pow_pos (by omega))

/-- A field's value fits its width. -/
theorem State.memRead_lt (s : State) (i k : Nat) : s.memRead i k < 256 ^ k := by
  unfold State.memRead
  cases s.cfg.order with
  | le => simpa [assemble] using assembleLE_lt (s.fbBytes i k)
  | be => simpa [assemble] using assembleLE_lt (s.fbBytes i k).reverse

/-! ### Bytes after a write -/

@[simp] theorem State.fbByte_setFbByte_same (s : State) (i : Nat) (b : Byte) :
    (s.setFbByte i b).fbByte i = b := by
  simp [State.setFbByte, State.fbByte]

theorem State.fbByte_setFbByte_ne (s : State) {i k : Nat} (b : Byte) (h : k ≠ i) :
    (s.setFbByte i b).fbByte k = s.fbByte k := by
  simp [State.setFbByte, State.fbByte, Memory.read_write_ne s.fb b h]

theorem State.fbByte_setFbByte (s : State) (i k : Nat) (b : Byte) :
    (s.setFbByte i b).fbByte k = if k = i then b else s.fbByte k := by
  by_cases h : k = i
  · subst h; simp
  · rw [if_neg h, State.fbByte_setFbByte_ne s b h]

/-- What an index reads as after `MemWrite`: the field's byte inside it, as before outside it. -/
theorem Memory.read_memWrite (o : ByteOrder) (m : Memory) (i n v k : Nat) :
    Memory.read (Memory.memWrite o m i n v) k =
      if i ≤ k ∧ k < i + n then some ((splitBytes o n v).getD (k - i) 0#8) else Memory.read m k := by
  rw [Memory.memWrite, Memory.read_writeList, splitBytes_length]
  by_cases h : i ≤ k ∧ k < i + n
  · have hd : k - i < (splitBytes o n v).length := by rw [splitBytes_length]; omega
    simp [h, List.getElem?_eq_getElem hd]
  · simp [h]

/-- What an index reads as after `EncodeFlags`. -/
theorem Memory.read_encodeFlags (m : Memory) (f : BitVec 4) (k : Nat) :
    Memory.read (Memory.encodeFlags m f) k =
      if 4 ≤ k ∧ k < 8 then some (encflag (f.getLsbD (k - 4))) else Memory.read m k := by
  rw [Memory.encodeFlags, Memory.read_writeList]
  by_cases h : 4 ≤ k ∧ k < 8
  · obtain ⟨h4, h8⟩ := h
    interval_cases k <;> rfl
  · rw [if_neg h, if_neg (by simpa [flagBytes] using h)]

/-- What a byte reads as after `MemWrite`: the field's byte inside it, as before outside it. -/
theorem State.fbByte_memWrite (s : State) (i m v k : Nat) :
    (s.withFb (Memory.memWrite s.cfg.order s.fb i m v)).fbByte k =
      if i ≤ k ∧ k < i + m then (splitBytes s.cfg.order m v).getD (k - i) 0#8 else s.fbByte k := by
  simp only [State.fbByte, State.withFb_fb, State.withFb_powerUp, Memory.read_memWrite]
  split <;> simp

theorem State.fbByte_memWrite_outside (s : State) (i m v : Nat) {k : Nat} (h : k < i ∨ i + m ≤ k) :
    (s.withFb (Memory.memWrite s.cfg.order s.fb i m v)).fbByte k = s.fbByte k := by
  rw [State.fbByte_memWrite, if_neg (by omega)]

/-- The bytes of a field just written. -/
theorem State.fbBytes_memWrite (s : State) (i m v : Nat) :
    (s.withFb (Memory.memWrite s.cfg.order s.fb i m v)).fbBytes i m = splitBytes s.cfg.order m v := by
  refine State.fbBytes_eq_of (splitBytes_length _ _ _) fun d hd => ?_
  have hl : d < (splitBytes s.cfg.order m v).length := by rw [splitBytes_length]; exact hd
  rw [State.fbByte_memWrite, if_pos (by omega), Nat.add_sub_cancel_left]
  simp [List.getElem?_eq_getElem hl]

/-! ### Updates that leave the frame buffer alone -/

@[simp] theorem State.fbByte_withStatus (s : State) (c : StatusCode) (i : Nat) :
    (s.withStatus c).fbByte i = s.fbByte i := rfl
@[simp] theorem State.fbByte_done (s : State) (i : Nat) : s.done.fbByte i = s.fbByte i := rfl
@[simp] theorem State.fbByte_fail (s : State) (c : StatusCode) (i : Nat) :
    (s.fail c).fbByte i = s.fbByte i := rfl
@[simp] theorem State.fbByte_finish (s : State) (v i : Nat) : (s.finish v).fbByte i = s.fbByte i := rfl
@[simp] theorem State.fbByte_loadHeader (s : State) (i : Nat) : s.loadHeader.fbByte i = s.fbByte i := rfl
@[simp] theorem State.fbByte_give (s : State) (v : ReadValue) (i : Nat) :
    (s.give v).fbByte i = s.fbByte i := rfl
@[simp] theorem State.fbByte_withProgram (s : State) (p : List HostEvent) (i : Nat) :
    (s.withProgram p).fbByte i = s.fbByte i := rfl
@[simp] theorem State.memRead_done (s : State) (i k : Nat) : s.done.memRead i k = s.memRead i k :=
  State.memRead_congr (State.done_cfg s) fun d _ _ => State.fbByte_done s d

/-! ### The header as a whole -/

/-- What a byte reads as after BUILD's header is laid out: the fields, the flag bytes, and, from index 12 on,
what it read before. -/
theorem State.fbByte_writeHeader (s : State) (k : Nat) :
    s.writeHeader.fbByte k =
      if k < 2 then (splitBytes s.cfg.order 2 s.seq.toNat).getD k 0#8
      else if k < 4 then (splitBytes s.cfg.order 2 s.ack.toNat).getD (k - 2) 0#8
      else if k < 8 then encflag (s.flags.getLsbD (k - 4))
      else if k < 12 then (splitBytes s.cfg.order 4 s.len.toNat).getD (k - 8) 0#8
      else s.fbByte k := by
  simp only [State.writeHeader, State.headerWritten, State.fbByte, State.withFb_fb, State.withFb_powerUp,
    Memory.read_memWrite, Memory.read_encodeFlags]
  by_cases h2 : k < 2
  · rw [if_pos h2, if_neg (by omega), if_neg (by omega), if_neg (by omega), if_pos (by omega)]; simp
  by_cases h4 : k < 4
  · rw [if_neg h2, if_pos h4, if_neg (by omega), if_neg (by omega), if_pos (by omega)]; simp
  by_cases h8 : k < 8
  · rw [if_neg h2, if_neg h4, if_pos h8, if_neg (by omega), if_pos (by omega)]; simp
  by_cases h12 : k < 12
  · rw [if_neg h2, if_neg h4, if_neg h8, if_pos h12, if_pos (by omega)]; simp
  rw [if_neg h2, if_neg h4, if_neg h8, if_neg h12, if_neg (by omega), if_neg (by omega), if_neg (by omega),
    if_neg (by omega)]

end Sys2Proof.Machine
end

