-- ==== Sys2Proof/Laws/Flags.lean ====
section
/-! SUPPORT. Laws/Flags.lean: the flag codec, bit by bit. -/

namespace Sys2Proof.Machine

@[simp] theorem decflag_encflag (b : Bool) : decflag (encflag b) = b := by cases b <;> rfl

/-- Encoding what a byte decodes to makes it 0 or 1. -/
theorem encflag_decflag (b : Byte) : encflag (decflag b) = if b = 0#8 then 0#8 else 1#8 := by
  by_cases h : b = 0#8 <;> simp [encflag, decflag, h]

/-- FLAGS bit `k` is what byte `4 + k` decodes to. -/
theorem State.decodeFlags_getLsbD (s : State) (k : Nat) (h : k < 4) :
    s.decodeFlags.getLsbD k = decflag (s.fbByte (4 + k)) := by
  unfold State.decodeFlags
  interval_cases k <;> cases decflag (s.fbByte 7) <;> cases decflag (s.fbByte 6) <;>
    cases decflag (s.fbByte 5) <;> cases hd : decflag (s.fbByte 4) <;> simp_all

theorem State.decodeFlags_congr {s t : State} (h : ∀ i, 4 ≤ i → i < 8 → s.fbByte i = t.fbByte i) :
    s.decodeFlags = t.decodeFlags := by
  simp only [State.decodeFlags, h 4 (by omega) (by omega), h 5 (by omega) (by omega),
    h 6 (by omega) (by omega), h 7 (by omega) (by omega)]

/-- The bits FLAGS reads as: the four flags, ACKLIKE, zeros. -/
theorem flagsWord_getLsbD (f : BitVec 4) (k : Nat) :
    (flagsWord f).getLsbD k = if k < 4 then f.getLsbD k else if k = 4 then ackLike f else false := by
  rw [flagsWord, BitVec.getLsbD_setWidth, BitVec.getLsbD_append]
  by_cases h4 : k < 4
  · simp [h4]; omega
  · by_cases h5 : k = 4
    · subst h5; simp
    · have : k - 4 ≠ 0 := by omega
      simp [h4, h5, this]

end Sys2Proof.Machine
end

