-- ==== Sys2Proof/Laws/HostPort.lean ====
section
/-! SUPPORT. Laws/HostPort.lean: what each command, transaction and event can do: one inversion lemma per
shared operation, so that no proof unfolds it again. -/

namespace Sys2Proof.Machine

/-! ### Commands -/

theorem exec_toInstr (c : Command) (s : State) : exec c.toInstr s = runCommand c s := by
  cases c <;> rfl

theorem distance_lt {n : Nat} (a b : Nat) (h : 0 < n) : distance n a b < n := by
  have h1 : ((a : Int) - (b : Int)) % (n : Int) < n := Int.emod_lt_of_pos _ (by omega)
  have h0 : 0 ≤ ((a : Int) - (b : Int)) % (n : Int) := Int.emod_nonneg _ (by omega)
  unfold distance
  omega

/-- `distance` is the mathematical remainder. -/
theorem distance_cast {n : Nat} (a b : Nat) (h : 0 < n) :
    (distance n a b : Int) = ((a : Int) - (b : Int)) % (n : Int) := by
  have h0 : 0 ≤ ((a : Int) - (b : Int)) % (n : Int) := Int.emod_nonneg _ (by omega)
  unfold distance
  omega

/-- The distance of two values in the space, without a remainder. -/
theorem distance_eq {n a b : Nat} (ha : a < n) (hb : b < n) :
    distance n a b = if b ≤ a then a - b else a + n - b := by
  by_cases h : b ≤ a
  · rw [if_pos h, distance]
    have : ((a : Int) - (b : Int)) % (n : Int) = (a : Int) - b := Int.emod_eq_of_lt (by omega) (by omega)
    omega
  · rw [if_neg h, distance]
    have h1 : ((a : Int) - (b : Int)) % (n : Int) = ((a : Int) - b + n) % (n : Int) := by
      rw [Int.add_emod_right]
    have h2 : ((a : Int) - (b : Int) + n) % (n : Int) = (a : Int) - b + n :=
      Int.emod_eq_of_lt (by omega) (by omega)
    omega

theorem orderBits_toNat_le (n d : Nat) : (orderBits n d).toNat ≤ 4 := by
  unfold orderBits
  by_cases h0 : d = 0
  · subst h0; simp
  by_cases h1 : 2 * d < n
  · have h2 : ¬ n < 2 * d := by omega
    simp [h0, h1, h2]
  · by_cases h2 : n < 2 * d <;> simp [h0, h1, h2]

/-- What a command can do to the state. -/
inductive CommandEffect (s : State) : State → Prop where
  /-- it fails and only STATUS is written -/
  | failed (code : StatusCode) (h : code ≠ .ok) : CommandEffect s (s.fail code)
  /-- BUILD's success -/
  | built : CommandEffect s s.writeHeader.done
  /-- PARSE, with whatever outcome -/
  | parsed (code : StatusCode) : CommandEffect s (s.loadHeader.withStatus code)
  /-- a sequence-space command's success, with a result a command can produce -/
  | finished (v : Nat) (h : v < s.cfg.n ∨ v ≤ 4) : CommandEffect s (s.finish v)

/-- Every command answers a next state, and does one of these things. -/
theorem runCommand_effect (c : Command) (s : State) :
    ∃ t, runCommand c s = .next t ∧ CommandEffect s t := by
  cases c with
  | build =>
    refine ⟨_, rfl, ?_⟩
    split
    · exact .failed _ (by decide)
    split
    · exact .failed _ (by decide)
    · exact .built
  | parse =>
    refine ⟨_, rfl, ?_⟩
    split
    · exact .parsed _
    split
    · exact .parsed _
    · exact .parsed _
  | seqAdd =>
    refine ⟨_, rfl, ?_⟩
    split
    · exact .failed _ (by decide)
    · exact .finished _ (.inl (Nat.mod_lt _ (by simp only [State.inRange] at *; omega)))
  | seqSub =>
    refine ⟨_, rfl, ?_⟩
    split
    · exact .failed _ (by decide)
    · exact .finished _ (.inl (distance_lt _ _ (by simp only [State.inRange] at *; omega)))
  | seqCmp =>
    refine ⟨_, rfl, ?_⟩
    split
    · exact .failed _ (by decide)
    · exact .finished _ (.inr (orderBits_toNat_le _ _))
  | seqInwin =>
    refine ⟨_, rfl, ?_⟩
    split
    · exact .failed _ (by decide)
    · refine .finished _ (.inr ?_)
      split <;> omega
  | endSeq =>
    refine ⟨_, rfl, ?_⟩
    split
    · exact .failed _ (by decide)
    split
    · exact .failed _ (by decide)
    · exact .finished _ (.inl (Nat.mod_lt _ (by simp only [State.inRange] at *; omega)))

/-- A CMD write answers a next state: a command's effect, or status EOP. -/
theorem writeCmd_effect (w : Word) (s : State) : ∃ t, writeCmd w s = .next t ∧ CommandEffect s t := by
  unfold writeCmd
  split
  · exact runCommand_effect _ s
  · exact ⟨_, rfl, .failed _ (by decide)⟩

/-! ### The register map -/

/-- The port reaches a register at exactly the aligned offsets 0x00 to 0x34. -/
theorem regAt_isSome_iff (o : Nat) : (regAt o).isSome ↔ o % 4 = 0 ∧ o ≤ 0x34 := by
  unfold regAt
  by_cases h : o % 4 ≠ 0 ∨ 0x100 ≤ o
  · rw [if_pos h]; simp; omega
  · rw [if_neg h]
    by_cases h34 : o ≤ 0x34
    · have ho : o = 4 * (o / 4) := by omega
      have hq : o / 4 ≤ 13 := by omega
      generalize o / 4 = q at *
      subst ho
      interval_cases q <;> simp
    · have hq : 14 ≤ o / 4 := by omega
      generalize o / 4 = q at *
      split <;> first | omega | (simp; omega)

theorem regAt_eq_none_iff (o : Nat) : regAt o = none ↔ o % 4 ≠ 0 ∨ 0x38 ≤ o := by
  have h := regAt_isSome_iff o
  rcases hr : regAt o with _ | r
  · rw [hr] at h
    simp at h
    simp only [true_iff]
    omega
  · rw [hr] at h
    simp at h
    simp only [reduceCtorEq, false_iff]
    omega

@[simp] theorem regAt_offset (r : Reg) : regAt r.offset.toNat = some r := by cases r <;> rfl

/-- Only offset 0 is CMD. -/
theorem regAt_eq_cmd {o : Nat} (h : regAt o = some .cmd) : o = 0 := by
  unfold regAt at h
  by_cases hb : o % 4 ≠ 0 ∨ 0x100 ≤ o
  · rw [if_pos hb] at h; exact absurd h (by simp)
  · rw [if_neg hb] at h
    split at h <;> first | omega | exact absurd h (by simp)

/-! ### Register writes -/

/-- What a write of a register that is not CMD leaves alone. -/
theorem State.writeReg_frame (s : State) (r : Reg) (w : Word) :
    (s.writeReg r w).cfg = s.cfg ∧ (s.writeReg r w).status = s.status ∧ (s.writeReg r w).res = s.res ∧
      (s.writeReg r w).fb = s.fb ∧ (s.writeReg r w).powerUp = s.powerUp ∧
      (s.writeReg r w).program = s.program ∧ (s.writeReg r w).returned = s.returned := by
  cases r <;> exact ⟨rfl, rfl, rfl, rfl, rfl, rfl, rfl⟩

/-! ### Transactions and events -/

/-- What an accepted access or transaction can do to the state. -/
inductive PortEffect (s : State) : State → Prop where
  /-- a CMD write of `w` -/
  | command (w : Word) (t : State) (h : writeCmd w s = .next t) : PortEffect s t
  /-- a write of a register that is not CMD -/
  | stored (r : Reg) (w : Word) : PortEffect s (s.writeReg r w)
  /-- a read -/
  | gave (v : ReadValue) : PortEffect s (s.give v)
  /-- a frame-buffer write inside the buffer -/
  | wrote (i : Nat) (b : Byte) (h : i < frameSize s.cfg) : PortEffect s (s.setFbByte i b)

theorem regWriteAt_effect {o : Nat} {w : Word} {s t : State} (h : regWriteAt o w s = .next t) :
    PortEffect s t := by
  unfold regWriteAt at h
  split at h
  · simp [raiseBusError] at h
  · exact .command w t h
  · injection h with h; subst h; exact .stored _ w

theorem regReadAt_effect {o : Nat} {s t : State} (h : regReadAt o s = .next t) :
    ∃ v, t = s.give v := by
  unfold regReadAt at h
  split at h
  · simp [raiseBusError] at h
  · injection h with h; exact ⟨_, h.symm⟩

theorem fbWriteAt_effect {i : Nat} {b : Byte} {s t : State} (h : fbWriteAt i b s = .next t) :
    i < frameSize s.cfg ∧ t = s.setFbByte i b := by
  unfold fbWriteAt at h
  split at h
  · simp [raiseBusError] at h
  · injection h with h; exact ⟨by omega, h.symm⟩

theorem fbReadAt_effect {i : Nat} {s t : State} (h : fbReadAt i s = .next t) :
    ∃ v, t = s.give v := by
  unfold fbReadAt at h
  split at h
  · simp [raiseBusError] at h
  · injection h with h; exact ⟨_, h.symm⟩

theorem portAccess_effect {a : PortAccess} {s t : State} (h : portAccess a s = .next t) :
    PortEffect s t := by
  cases a with
  | read width off =>
    simp only [portAccess] at h
    split at h
    · split at h
      · simp [raiseBusError] at h
      · obtain ⟨v, rfl⟩ := regReadAt_effect h; exact .gave v
    · split at h
      · simp [raiseBusError] at h
      · obtain ⟨v, rfl⟩ := fbReadAt_effect h; exact .gave v
  | write width off data =>
    simp only [portAccess] at h
    split at h
    · split at h
      · simp [raiseBusError] at h
      · exact regWriteAt_effect h
    · split at h
      · simp [raiseBusError] at h
      · obtain ⟨hi, rfl⟩ := fbWriteAt_effect h; exact .wrote _ _ hi

/-- A transaction's four kinds, as instructions. -/
theorem exec_transaction_effect {i : Instr} {s t : State} (h : exec i s = .next t)
    (hi : ∀ c : Command, i ≠ c.toInstr) : PortEffect s t := by
  cases i with
  | build => exact absurd rfl (hi .build)
  | parse => exact absurd rfl (hi .parse)
  | seqAdd => exact absurd rfl (hi .seqAdd)
  | seqSub => exact absurd rfl (hi .seqSub)
  | seqCmp => exact absurd rfl (hi .seqCmp)
  | seqInwin => exact absurd rfl (hi .seqInwin)
  | endSeq => exact absurd rfl (hi .endSeq)
  | regWrite off data => exact regWriteAt_effect h
  | regRead off => obtain ⟨v, rfl⟩ := regReadAt_effect h; exact .gave v
  | fbWrite off data => obtain ⟨hb, rfl⟩ := fbWriteAt_effect h; exact .wrote _ _ hb
  | fbRead off => obtain ⟨v, rfl⟩ := fbReadAt_effect h; exact .gave v

/-- A record decodes to a transaction, never to a bare command. -/
theorem decodeRecord_not_command {r : Record} {i : Instr} (h : decodeRecord r = .ok i) (c : Command) :
    i ≠ c.toInstr := by
  unfold decodeRecord at h
  rintro rfl
  split at h <;> try split at h
  all_goals cases c <;> simp [Command.toInstr] at h

/-- What a step can do: nothing when no event is left, a reset, or an access the port accepts. -/
theorem step_cases {s t : State} (h : step s = .next t) :
    (s.program = [] ∧ t = s) ∨
    ∃ e rest, s.program = e :: rest ∧
      ((e = .reset ∧ t = (s.withProgram rest).applyReset) ∨
        (e ≠ .reset ∧ PortEffect (s.withProgram rest) t)) := by
  unfold step at h
  split at h
  · rename_i hp
    injection h with h
    exact .inl ⟨hp, h.symm⟩
  · rename_i e rest hp
    refine .inr ⟨e, rest, hp, ?_⟩
    cases e with
    | reset => injection h with h; exact .inl ⟨rfl, h.symm⟩
    | access a => exact .inr ⟨by simp, portAccess_effect h⟩
    | record r =>
      refine .inr ⟨by simp, ?_⟩
      simp only [runEvent, runRecord] at h
      split at h
      · rename_i i hi
        exact exec_transaction_effect h (decodeRecord_not_command hi)
      · simp at h

/-! ### Runs -/

theorem core_run_zero (s : State) : Sys2Proof.core.run 0 s = .next s := rfl

theorem core_run_of_next {s t : State} (h : step s = .next t) (k : Nat) :
    Sys2Proof.core.run (k + 1) s = Sys2Proof.core.run k t := by
  have h' : Sys2Proof.core.step s = .next t := h
  simp only [Host.Core.run, h']

theorem core_run_of_fault {s : State} {f : Fault} (h : step s = .fault f) (k : Nat) :
    Sys2Proof.core.run (k + 1) s = .fault f := by
  have h' : Sys2Proof.core.step s = .fault f := h
  simp only [Host.Core.run, h']

end Sys2Proof.Machine
end

