-- ==== Sys2Proof/Laws/PerInstr.lean ====
section
/-! SUPPORT. Laws/PerInstr.lean: per instruction: its encoding matches its row of spec/opcode_table.json
(the row's width, and the row's match under the row's mask). -/

namespace Sys2Proof.Laws

/-- An instruction's row: is it a command word or a record, and its match and mask as numbers. -/
def tableRow : Instr → Bool × Nat × Nat
  | .build => (true, 0x00000001, 0xFFFFFFFF)
  | .parse => (true, 0x00000002, 0xFFFFFFFF)
  | .seqAdd => (true, 0x00000003, 0xFFFFFFFF)
  | .seqSub => (true, 0x00000004, 0xFFFFFFFF)
  | .seqCmp => (true, 0x00000005, 0xFFFFFFFF)
  | .seqInwin => (true, 0x00000006, 0xFFFFFFFF)
  | .endSeq => (true, 0x00000007, 0xFFFFFFFF)
  | .regWrite _ _ => (false, 0x0000000000000000, 0xC000000000000000)
  | .regRead _ => (false, 0x4000000000000000, 0xC000000000000000)
  | .fbWrite _ _ => (false, 0x8000000000000000, 0xC000000000000000)
  | .fbRead _ => (false, 0xC000000000000000, 0xC000000000000000)

/-- The encoding of `i` has its row's width and its row's match under its row's mask. -/
def TableMatch.Statement (i : Instr) : Prop :=
  match encode i with
  | .command w => (tableRow i).1 = true ∧ w &&& BitVec.ofNat 32 (tableRow i).2.2 = BitVec.ofNat 32 (tableRow i).2.1
  | .record r => (tableRow i).1 = false ∧ r &&& BitVec.ofNat 64 (tableRow i).2.2 = BitVec.ofNat 64 (tableRow i).2.1

/-- Two record words are equal when their 62 low bits and their KIND are. -/
theorem mkRecord_mask (kind : BitVec 2) (off : BitVec 30) (data : Word) :
    mkRecord kind off data &&& 0xC000000000000000#64 = kind.setWidth 64 <<< 62 := by
  apply BitVec.eq_of_getLsbD_eq
  intro k hk
  have hm : (0xC000000000000000#64).getLsbD k = decide (62 ≤ k ∧ k < 64) := by
    revert k; decide
  rw [BitVec.getLsbD_and, hm, mkRecord, BitVec.getLsbD_append, BitVec.getLsbD_append,
    BitVec.getLsbD_shiftLeft, BitVec.getLsbD_setWidth]
  by_cases h62 : 62 ≤ k
  · have h32 : ¬ k < 32 := by omega
    have h30 : ¬ k - 32 < 30 := by omega
    have hs : k - 32 - 30 = k - 62 := by omega
    simp [h62, hk, h32, h30, hs, Nat.not_lt.mpr h62]
    intro hb
    have : k - 62 < 2 := by omega
    omega
  · have : k < 62 := by omega
    simp [h62, this]

theorem TableMatch.build : TableMatch.Statement .build := by
  constructor <;> decide
theorem TableMatch.parse : TableMatch.Statement .parse := by
  constructor <;> decide
theorem TableMatch.seqAdd : TableMatch.Statement .seqAdd := by
  constructor <;> decide
theorem TableMatch.seqSub : TableMatch.Statement .seqSub := by
  constructor <;> decide
theorem TableMatch.seqCmp : TableMatch.Statement .seqCmp := by
  constructor <;> decide
theorem TableMatch.seqInwin : TableMatch.Statement .seqInwin := by
  constructor <;> decide
theorem TableMatch.endSeq : TableMatch.Statement .endSeq := by
  constructor <;> decide
theorem TableMatch.regWrite (off : BitVec 30) (data : Word) : TableMatch.Statement (.regWrite off data) :=
  ⟨rfl, mkRecord_mask 0#2 off data⟩
theorem TableMatch.regRead (off : BitVec 30) : TableMatch.Statement (.regRead off) :=
  ⟨rfl, mkRecord_mask 1#2 off 0#32⟩
theorem TableMatch.fbWrite (off : BitVec 30) (data : Word) : TableMatch.Statement (.fbWrite off data) :=
  ⟨rfl, mkRecord_mask 2#2 off data⟩
theorem TableMatch.fbRead (off : BitVec 30) : TableMatch.Statement (.fbRead off) :=
  ⟨rfl, mkRecord_mask 3#2 off 0#32⟩

end Sys2Proof.Laws
end

