-- ==== Sys2Proof/Tests/Slice0.lean ====
section
/-! SUPPORT. Tests/Slice0.lean: words written out from the encodings of 30_encoding.md, the vectors of
95_test_vectors.md, the checks of WellFormed, and a witness for the hypotheses of each statement. -/

namespace Sys2Proof.Tests

open Sys2Proof Sys2Proof.Machine Sys2Proof.Safety

/-- The next state of an outcome, if it is one. -/
def nextOf : Host.Outcome State Fault Refusal → Option State
  | .next s => some s
  | _ => none

/-- The fault of an outcome, if it is one. -/
def faultOf : Host.Outcome State Fault Refusal → Option Fault
  | .fault f => some f
  | _ => none

/-- A field of the next state an instruction answers from `s`. -/
def after (i : Instr) (s : State) {α : Type} (f : State → α) : Option α := (nextOf (exec i s)).map f

/-- The reset block with header registers loaded. -/
def header (seq ack : Half) (flags : BitVec 4) (len : Word) : State :=
  { State.reset with seq := seq, ack := ack, flags := flags, len := len }

/-- The reset block with operand registers loaded. -/
def operands (a b c : Word) : State := { State.reset with opa := a, opb := b, opc := c }

/-- The reset block with a received header in FB. -/
def received (bs : List Byte) : State := { State.reset with fb := Memory.writeList [] 0 bs }

/-- A state with other parameters. -/
def built (n cap : Nat) (o : ByteOrder) (s : State) : State := { s with cfg := { n := n, cap := cap, order := o } }

/-- The twelve header bytes as written. -/
def headerBytes (s : State) : List (Option Byte) := (List.range 12).map (Memory.read s.fb)

/-! ### WellFormed: its one check, and the term it refuses -/

theorem test_wellFormed_fbWrite_byte : (Instr.fbWrite 12#30 0x41#32).wellFormed = true := by decide
theorem test_wellFormed_refuses_wide_byte : (Instr.fbWrite 12#30 0x141#32).wellFormed = false := by decide

/-! ### Decoding: each constructor's word, from R309, R310 and R313 bit by bit -/

theorem test_decode_build : decode (.command 0b00000000000000000000000000000001#32) = .ok .build := by decide
theorem test_decode_parse : decode (.command 0b00000000000000000000000000000010#32) = .ok .parse := by decide
theorem test_decode_seqAdd : decode (.command 0b00000000000000000000000000000011#32) = .ok .seqAdd := by decide
theorem test_decode_seqSub : decode (.command 0b00000000000000000000000000000100#32) = .ok .seqSub := by decide
theorem test_decode_seqCmp : decode (.command 0b00000000000000000000000000000101#32) = .ok .seqCmp := by decide
theorem test_decode_seqInwin :
    decode (.command 0b00000000000000000000000000000110#32) = .ok .seqInwin := by decide
theorem test_decode_endSeq : decode (.command 0b00000000000000000000000000000111#32) = .ok .endSeq := by decide
/-- KIND 00, OFF 0x08, DATA 1000: program P1, `WR SEQ, 1000`. -/
theorem test_decode_regWrite : decode (.record
    0b0000000000000000000000000000100000000000000000000000001111101000#64) =
      .ok (.regWrite 8#30 1000#32) := by decide
/-- KIND 01, OFF 0x04, DATA 0: program P1, `RD STATUS`. -/
theorem test_decode_regRead : decode (.record
    0b0100000000000000000000000000010000000000000000000000000000000000#64) =
      .ok (.regRead 4#30) := by decide
/-- KIND 10, OFF 11, DATA 0: program P2, the last record of its `WBS`. -/
theorem test_decode_fbWrite : decode (.record
    0b1000000000000000000000000000101100000000000000000000000000000000#64) =
      .ok (.fbWrite 11#30 0#32) := by decide
/-- KIND 11, OFF 11, DATA 0: program P1, the last record of its `RBS`. -/
theorem test_decode_fbRead : decode (.record
    0b1100000000000000000000000000101100000000000000000000000000000000#64) =
      .ok (.fbRead 11#30) := by decide
theorem test_decode_illegal_op :
    decode (.command 0x0#32) = .error .illegalOp ∧ decode (.command 0x8#32) = .error .illegalOp := by decide
theorem test_decode_reserved_bits :
    decode (.command 0x11#32) = .error .reservedBits ∧
      decode (.command 0x80000001#32) = .error .reservedBits := by decide
theorem test_decode_malformed_data :
    decode (.record 0x4000000400000001#64) = .error .malformedData ∧
      decode (.record 0x8000000C00000141#64) = .error .malformedData := by decide

/-- The record column of P1 to P4 (R314, R315). -/
theorem test_lines_are_the_records_of_P1_to_P4 :
    (Line.wr (.name .ack) 0#32).records = [0x0000000C00000000#64] ∧
    (Line.wr (.name .opb) 1#32).records = [0x0000001C00000001#64] ∧
    (Line.rd (.name .res)).records = [0x4000002400000000#64] ∧
    (Line.rd (.offset 0x38#30)).records = [0x4000003800000000#64] ∧
    (Line.command .endSeq).records = [0x0000000000000007#64] ∧
    (Line.wbs 0#30 [0x58#8, 0x1B#8]).records = [0x8000000000000058#64, 0x800000010000001B#64] ∧
    (Line.rbs 0#30 2).records = [0xC000000000000000#64, 0xC000000100000000#64] := by decide

/-! ### Every row of the opcode table runs as the first instruction after reset -/

theorem test_every_row_runs_first :
    ([(32, 1), (32, 2), (32, 3), (32, 4), (32, 5), (32, 6), (32, 7), (64, 0), (64, 0x4000000000000000),
      (64, 0x8000000000000000), (64, 0xC000000000000000)].all fun (n, w) =>
        (nextOf (step (State.reset.withFetchWord n w))).isSome) = true := by decide

/-! ### Vectors of 95_test_vectors.md, at most two per instruction -/

theorem test_build_le : after .build (header 0x1234#16 0x0ABC#16 0x5#4 0#32) (fun t => (headerBytes t, t.status)) =
    some ([0x34#8, 0x12#8, 0xBC#8, 0x0A#8, 1#8, 0#8, 1#8, 0#8, 0#8, 0#8, 0#8, 0#8].map some, .ok) := by decide
theorem test_build_be : after .build (built 25601 512 .be (header 1#16 0#16 0#4 392#32)) headerBytes =
    some ([0#8, 1#8, 0#8, 0#8, 0#8, 0#8, 0#8, 0#8, 0#8, 0#8, 1#8, 0x88#8].map some) := by decide
theorem test_parse : after .parse (received [0x10#8, 0#8, 0x20#8, 0#8, 0#8, 2#8, 0#8, 0#8, 5#8, 0#8, 0#8, 0#8])
    (fun t => (t.seq, t.ack, t.readReg .flags, t.len, t.status)) = some (16#16, 32#16, 2#32, 5#32, .ok) := by
  decide
theorem test_parse_elen_before_erange :
    after .parse (received [0xFF#8, 0xFF#8, 0#8, 0#8, 0#8, 0#8, 0#8, 0xFF#8, 1#8, 2#8, 0#8, 0#8])
      (fun t => (t.seq, t.readReg .flags, t.len, t.status)) = some (65535#16, 0x18#32, 513#32, .elen) := by decide
theorem test_seqAdd_no_truncation :
    after .seqAdd (operands 0#32 0xFFFFFFFF#32 0#32) (fun t => (t.res, t.status)) = some (15530#32, .ok) := by
  decide
theorem test_seqAdd_wraps : after .seqAdd (operands 25513#32 512#32 0#32) State.res = some 424#32 := by decide
theorem test_seqSub_backwards : after .seqSub (operands 424#32 25513#32 0#32) State.res = some 512#32 := by decide
theorem test_seqSub_erange : after .seqSub (operands 5#32 25601#32 0#32) (fun t => (t.res, t.status)) =
    some (0#32, .erange) := by decide
theorem test_seqCmp_greater : after .seqCmp (operands 0#32 12801#32 0#32) State.res = some 4#32 := by decide
theorem test_seqCmp_incomparable :
    after .seqCmp (built 65536 512 .le (operands 0#32 32768#32 0#32)) (fun t => (t.res, t.status)) =
      some (0#32, .ok) := by decide
theorem test_seqInwin_end_is_outside :
    after .seqInwin (operands 424#32 25001#32 1024#32) State.res = some 0#32 := by decide
theorem test_seqInwin_wraps : after .seqInwin (operands 5#32 25600#32 10#32) State.res = some 1#32 := by decide
theorem test_endSeq_syn_fin : after .endSeq (header 25600#16 0#16 0x3#4 0#32) State.res = some 1#32 := by decide
theorem test_endSeq_elen : after .endSeq (header 100#16 0#16 0#4 513#32) (fun t => (t.res, t.status)) =
    some (0#32, .elen) := by decide
theorem test_regWrite_flags :
    after (.regWrite 0x10#30 0x8#32) State.reset (fun t => t.readReg .flags) = some 0x18#32 ∧
      after (.regWrite 0x10#30 0x10#32) State.reset (fun t => t.readReg .flags) = some 0#32 := by decide
theorem test_regWrite_illegal_command :
    after (.regWrite 0#30 0x11#32) State.reset State.status = some .eop := by decide
theorem test_regRead_cfgN :
    after (.regRead 0x28#30) (built 65536 512 .le State.reset) State.returned =
      some [.word 0x00010000#32] := by decide
theorem test_regRead_reserved : faultOf (exec (.regRead 0x38#30) State.reset) = some (.busError 0x38) := by decide
theorem test_fbWrite_last : after (.fbWrite 523#30 0xAA#32) State.reset State.fb = some [(523, 0xAA#8)] := by decide
theorem test_fbWrite_past_end : faultOf (exec (.fbWrite 524#30 0xAA#32) State.reset) =
    some (.busError 0x30C) := by decide
theorem test_fbRead : after (.fbRead 1#30) (received [0x34#8, 0x12#8]) State.returned = some [.byte 0x12#8] := by
  decide
theorem test_port_narrow_register_and_wide_frame_buffer :
    faultOf (portAccess (.read 16 0x08#32) State.reset) = some (.busError 0x08) ∧
      faultOf (portAccess (.write 32 0x100#32 0#32) State.reset) = some (.busError 0x100) := by decide

/-! ### Witnesses: for each statement with hypotheses, a state and operands that meet them, clause by clause -/

/-- A reset block whose host has one event to issue. -/
def issuing (e : HostEvent) : State := State.reset.withProgram [e]

theorem witness_DecodeEncodeRoundTrip :
    (Instr.fbWrite 523#30 0xFF#32).wellFormed = true ∧ (Instr.regWrite 0#30 1#32).wellFormed = true ∧
      Instr.build.wellFormed = true := by decide
theorem witness_EncodeDecodeRoundTrip :
    decode (.record 0x0000000000000001#64) = .ok (.regWrite 0#30 1#32) ∧
      decode (.command 0x00000007#32) = .ok .endSeq := by decide
theorem witness_CmdWriteRunsTheCommandMap :
    (0x0#32 : Word).extractLsb' 0 4 = 0#4 ∧ 8 ≤ ((0x8#32 : Word).extractLsb' 0 4).toNat ∧
      8 ≤ ((0xF#32 : Word).extractLsb' 0 4).toNat ∧ (0x11#32 : Word).extractLsb' 4 28 ≠ 0#28 := by decide
theorem witness_StepRunsDecodedRecord :
    (issuing (.record 0x4000000400000000#64)).program = .record 0x4000000400000000#64 :: [] ∧
      decode (.record 0x4000000400000000#64) = .ok (.regRead 4#30) := by decide
theorem witness_StepRunsCommandWord :
    (issuing (.record ((2#32 : Word).setWidth 64))).program = .record ((2#32 : Word).setWidth 64) :: [] ∧
      decode (.command 2#32) = .ok .parse := by decide
theorem witness_StepRunsTableWord :
    decodeTableWord 32 3 = some .seqAdd ∧ decodeTableWord 64 3 = some (.regWrite 0#30 3#32) := by decide
theorem witness_StepIssuesThePortAccess :
    (issuing (.access (.read 32 0x34#32))).program = .access (.read 32 0x34#32) :: [] ∧
      (issuing (.access (.write 8 0x30B#32 0xAA#32))).program = .access (.write 8 0x30B#32 0xAA#32) :: [] := by
  decide
theorem witness_IdleFramerKeepsItsState : State.reset.program = [] := by decide
theorem witness_MalformedRecordIsRefused :
    (issuing (.record 0xC000000000000001#64)).program = .record 0xC000000000000001#64 :: [] ∧
    (0x4000000400000001#64 : Record).extractLsb' 62 2 = 1#2 ∧
    (0x4000000400000001#64 : Record).extractLsb' 0 32 ≠ 0#32 ∧
    (0xC000000000000001#64 : Record).extractLsb' 62 2 = 3#2 ∧
    (0xC000000000000001#64 : Record).extractLsb' 0 32 ≠ 0#32 ∧
    (0x8000000C00000100#64 : Record).extractLsb' 62 2 = 2#2 ∧
    (0x8000000C00000100#64 : Record).extractLsb' 8 24 ≠ 0#24 := by decide

/-- The cases R610 lists, at their edges, and accesses outside all of them, for the reset block. -/
theorem witness_BusErrorExactlyInTheListedCases :
    (issuing (.access (.read 16 0x08#32))).program = .access (.read 16 0x08#32) :: [] ∧
    ((0x08#32 : Word).toNat < 0x100 ∧ 16 ≠ 32) ∧ (0x36#32 : Word).toNat % 4 ≠ 0 ∧
    (0x38 ≤ (0x38#32 : Word).toNat ∧ (0xFC#32 : Word).toNat ≤ 0xFC) ∧
    ((0x30B#32 : Word).toNat < 0x100 + frameSize State.reset.cfg ∧ 16 ≠ 8) ∧
    0x100 + frameSize State.reset.cfg ≤ (0x30C#32 : Word).toNat ∧
    Accepted State.reset.cfg 32 (0x34#32 : Word).toNat ∧ Accepted State.reset.cfg 8 (0x100#32 : Word).toNat ∧
    Accepted State.reset.cfg 8 (0x30B#32 : Word).toNat := by decide
/-- The four outcomes, as four states that hold them (R602). -/
theorem witness_RegReadRule_status :
    State.reset.status = .ok ∧ after .build (header 0#16 0#16 0#4 513#32) State.status = some .elen ∧
      after .build (header 25601#16 0#16 0#4 0#32) State.status = some .erange ∧
      after (.regWrite 0#30 8#32) State.reset State.status = some .eop := by decide
theorem witness_RegWriteRule_and_RegReadRule :
    decodeCommand 5#32 = .ok .seqCmp ∧ decodeCommand 0x20#32 = .error .reservedBits ∧
    (0x02#30 : BitVec 30).toNat % 4 ≠ 0 ∧ 0x38 ≤ (0x38#30 : BitVec 30).toNat ∧
    0x38 ≤ (0x3FFFFFFF#30 : BitVec 30).toNat ∧ ((0xFF#32 : Word).toNat < 0x100 ∧ 8 ≠ 32) := by decide
theorem witness_FbWriteRule_and_FbReadRule :
    (0#30 : BitVec 30).toNat < 12 + State.reset.cfg.cap ∧ (523#30 : BitVec 30).toNat < 12 + State.reset.cfg.cap ∧
    12 + State.reset.cfg.cap ≤ (524#30 : BitVec 30).toNat ∧ (0x100 ≤ (0x100#32 : Word).toNat ∧ 32 ≠ 8) := by
  decide
theorem witness_FbReadReturnsTheLatestWrite :
    (0#30 : BitVec 30).toNat < 12 + State.reset.cfg.cap ∧ (523#30 : BitVec 30).toNat < 12 + State.reset.cfg.cap ∧
      (0#30 : BitVec 30) ≠ 523#30 := by decide
/-- A byte beside a written one, in a state that is not the reset state. -/
theorem witness_UnwrittenByteReadsAsFreeValue :
    (523#30 : BitVec 30).toNat < 12 + (received [1#8, 2#8]).cfg.cap ∧
      Memory.read (received [1#8, 2#8]).fb (523#30 : BitVec 30).toNat = none ∧
      Memory.read (received [1#8, 2#8]).fb (2#30 : BitVec 30).toNat = none := by decide
theorem witness_RegisterReadBack : Reg.flags ≠ .cmd ∧ (Reg.flags = .flags → 3 ≠ 4) := by decide

theorem witness_BuildRule_elen :
    (header 25601#16 0#16 0#4 513#32).len.toNat > (header 25601#16 0#16 0#4 513#32).cfg.cap := by decide
theorem witness_BuildRule_erange :
    (header 25601#16 0#16 0#4 512#32).len.toNat ≤ State.reset.cfg.cap ∧
      ((header 25601#16 0#16 0#4 512#32).seq.toNat ≥ State.reset.cfg.n ∨
        (header 25601#16 0#16 0#4 512#32).ack.toNat ≥ State.reset.cfg.n) := by decide
theorem witness_BuildRule_ok :
    (header 25600#16 25600#16 0xF#4 512#32).len.toNat ≤ State.reset.cfg.cap ∧
      (header 25600#16 25600#16 0xF#4 512#32).seq.toNat < State.reset.cfg.n ∧
      (header 25600#16 25600#16 0xF#4 512#32).ack.toNat < State.reset.cfg.n ∧
      12 ≤ 12 := by decide
theorem witness_BuildEmitsOnlyValidFrames_and_BuildThenParse :
    ∃ s t : State, exec .build s = .next t ∧ t.status = .ok :=
  ⟨header 25600#16 0#16 0x1#4 512#32, _, rfl, by decide⟩
theorem witness_ParseThenBuild : ∃ s t : State, exec .parse s = .next t ∧ t.status = .ok :=
  ⟨received [0x10#8, 0#8, 0x20#8, 0#8, 0#8, 2#8, 0#8, 0#8, 0#8, 2#8, 0#8, 0#8], _, rfl, by decide⟩

theorem witness_SeqAddRule :
    (operands 25600#32 1#32 0#32).cfg.wf ∧ (operands 25600#32 1#32 0#32).opa.toNat < 25601 ∧
      (operands 25601#32 1#32 0#32).opa.toNat ≥ (operands 25601#32 1#32 0#32).cfg.n := by decide
/-- SEQ_SUB, SEQ_CMP and SEQ_INWIN: operands in range at the edge, and one out of range. -/
theorem witness_two_operand_rules :
    (operands 25600#32 0#32 10#32).cfg.wf ∧
    (operands 25600#32 0#32 10#32).opa.toNat < (operands 25600#32 0#32 10#32).cfg.n ∧
    (operands 25600#32 0#32 10#32).opb.toNat < (operands 25600#32 0#32 10#32).cfg.n ∧
    ((1 : Nat) : Int) = (((operands 25600#32 0#32 10#32).opb.toNat : Int) -
      ((operands 25600#32 0#32 10#32).opa.toNat : Int)) % ((operands 25600#32 0#32 10#32).cfg.n : Int) ∧
    (operands 5#32 25601#32 0#32).opb.toNat ≥ (operands 5#32 25601#32 0#32).cfg.n := by decide
theorem witness_EndSeqRule :
    (header 25600#16 0#16 0x3#4 512#32).cfg.wf ∧
    (header 0#16 0#16 0#4 513#32).len.toNat > (header 0#16 0#16 0#4 513#32).cfg.cap ∧
    (header 25600#16 0#16 0x3#4 512#32).len.toNat ≤ (header 25600#16 0#16 0x3#4 512#32).cfg.cap ∧
    (header 25600#16 0#16 0x3#4 512#32).seq.toNat < (header 25600#16 0#16 0x3#4 512#32).cfg.n ∧
    (header 25601#16 0#16 0#4 0#32).seq.toNat ≥ (header 25601#16 0#16 0#4 0#32).cfg.n := by decide
theorem witness_SeqAddComposes_and_SeqSubAndSeqAddUndoEachOther :
    State.reset.cfg.wf ∧ (25600#32 : Word).toNat < State.reset.cfg.n ∧ (7#32 : Word).toNat < State.reset.cfg.n ∧
      (0xFFFFFFFE#32 : Word).toNat + (1#32 : Word).toNat < 2 ^ 32 := by decide
/-- SeqCommandsAgree and SuccessiveSegmentsIncrease: a data segment of the full payload. -/
theorem witness_data_segment :
    (header 25513#16 0#16 0#4 512#32).cfg.wf ∧
    (header 25513#16 0#16 0#4 512#32).opa.toNat < (header 25513#16 0#16 0#4 512#32).cfg.n ∧
    (header 25513#16 0#16 0#4 512#32).opb.toNat < (header 25513#16 0#16 0#4 512#32).cfg.n ∧
    (header 25513#16 0#16 0#4 512#32).seq.toNat < (header 25513#16 0#16 0#4 512#32).cfg.n ∧
    (header 25513#16 0#16 0#4 512#32).len.toNat ≤ (header 25513#16 0#16 0#4 512#32).cfg.cap ∧
    (header 25513#16 0#16 0#4 512#32).flags.getLsbD 0 = false ∧
    (header 25513#16 0#16 0#4 512#32).flags.getLsbD 1 = false ∧
    0 < (header 25513#16 0#16 0#4 512#32).len.toNat ∧
    2 * (header 25513#16 0#16 0#4 512#32).len.toNat < (header 25513#16 0#16 0#4 512#32).cfg.n := by decide

theorem witness_CommandStatusAndPriority :
    decodeCommand 0x0#32 = .error .illegalOp ∧
    lengthChecked (header 0#16 0#16 0#4 513#32) .endSeq = some 513 ∧ 513 > State.reset.cfg.cap ∧
    lengthChecked (header 25601#16 0#16 0#4 512#32) .build = some 512 ∧ ¬ 512 > State.reset.cfg.cap ∧
    25601 ∈ valuesChecked (header 25601#16 0#16 0#4 512#32) .build ∧ 25601 ≥ State.reset.cfg.n ∧
    lengthChecked State.reset .seqCmp = none ∧ valuesChecked State.reset .seqCmp = [0, 0] := by decide
theorem witness_FailingCommandWritesOnlyStatus :
    (∃ s t : State, exec Command.seqSub.toInstr s = .next t ∧ t.status ≠ .ok) ∧
      ∃ s t : State, exec Command.parse.toInstr s = .next t ∧ t.status ≠ .ok :=
  ⟨⟨operands 25601#32 0#32 0#32, _, rfl, by decide⟩,
    ⟨received [0xFF#8, 0xFF#8, 0#8, 0#8, 0#8, 0#8, 0#8, 0#8, 0#8, 0#8, 0#8, 0#8], _, rfl, by decide⟩⟩
theorem witness_StatusIsWrittenByEveryCommandOnly :
    ∃ t : State, (issuing (.record 0#64)).program = .record 0#64 :: [] ∧
      step (issuing (.record 0#64)) = .next t ∧ t.status ≠ (issuing (.record 0#64)).status :=
  ⟨_, rfl, rfl, by decide⟩
theorem witness_ResIsWrittenBySuccessfulSequenceCommandsOnly :
    ∃ s t : State, s.program = .record 7#64 :: [] ∧ step s = .next t ∧ t.res ≠ s.res :=
  ⟨(header 1000#16 0#16 0x1#4 0#32).withProgram [.record 7#64], _, rfl, rfl, by decide⟩
theorem witness_ParametersNeverChange : ∃ t : State, step (issuing .reset) = .next t := ⟨_, rfl⟩
theorem witness_ReadsHaveNoSideEffect : ∃ t : State, portAccess (.read 32 0x30#32) State.reset = .next t := ⟨_, rfl⟩
theorem witness_CmdWriteTwiceIsCmdWriteOnce : Memory.wf (received [1#8, 2#8, 3#8]).fb := by decide

/-- Two states that differ in a payload byte and in their hosts, and agree on all a command reads. -/
theorem witness_PayloadNeverMatters :
    SameRegisters (received [1#8, 2#8, 3#8, 0#8, 0#8, 0#8, 0#8, 0#8, 0#8, 0#8, 0#8, 0#8, 9#8])
      (received [1#8, 2#8, 3#8, 0#8, 0#8, 0#8, 0#8, 0#8, 0#8, 0#8, 0#8, 0#8, 7#8]) ∧
    SameHeader (received [1#8, 2#8, 3#8, 0#8, 0#8, 0#8, 0#8, 0#8, 0#8, 0#8, 0#8, 0#8, 9#8])
      (received [1#8, 2#8, 3#8, 0#8, 0#8, 0#8, 0#8, 0#8, 0#8, 0#8, 0#8, 0#8, 7#8]) := by decide
theorem witness_ResetEventResets : (issuing .reset).program = .reset :: [] := by decide
theorem witness_ResetMeetsTheInvariant : Params.wf { n := 65536, cap := 65535, order := .be } := by decide

/-- A state with written bytes and a result, that meets the invariant and steps. -/
theorem witness_StepKeepsTheInvariant :
    Inv { received [1#8, 2#8] with res := 25600#32, program := [.record 1#64] } ∧
      ∃ t, step { received [1#8, 2#8] with res := 25600#32, program := [.record 1#64] } = .next t :=
  ⟨⟨by decide, by decide, by decide, by decide⟩, _, rfl⟩
theorem witness_AcceptedProgramsRunToTheirEnd :
    ∀ e ∈ (State.reset.withProgram [.access (.read 32 0x34#32), .record 0x80000000000000AA#64, .reset]).program,
      AcceptedEvent State.reset.cfg e := by
  intro e he
  simp only [State.withProgram_program, List.mem_cons, List.not_mem_nil, or_false] at he
  rcases he with rfl | rfl | rfl
  · exact .inr ⟨(32, 0x34), by decide, by decide⟩
  · exact .inr ⟨(8, 0x100), by decide, by decide⟩
  · exact .inl rfl
theorem witness_RunEndsAtTheFirstBusError :
    ∃ s : State, s.program = [.reset] ++ .access (.write 32 0x38#32 0#32) :: [.record 1#64] ∧
      (∀ e ∈ [HostEvent.reset], AcceptedEvent s.cfg e) ∧
      accessOf (.access (.write 32 0x38#32 0#32)) = some (32, 0x38) ∧ ¬ Accepted s.cfg 32 0x38 :=
  ⟨State.reset.withProgram [.reset, .access (.write 32 0x38#32 0#32), .record 1#64], rfl,
    fun _ he => .inl (List.mem_singleton.mp he), rfl, by decide⟩
/-- The other kinds of refused event, each at an edge: a narrow read, and a record of each transaction. -/
theorem witness_RunEndsAtTheFirstBusError_kinds :
    (accessOf (.access (.read 16 0x34#32)) = some (16, 0x34) ∧ ¬ Accepted State.reset.cfg 16 0x34) ∧
    (accessOf (.record 0x0000003800000000#64) = some (32, 0x38) ∧ ¬ Accepted State.reset.cfg 32 0x38) ∧
    (accessOf (.record 0x4000003300000000#64) = some (32, 0x33) ∧ ¬ Accepted State.reset.cfg 32 0x33) ∧
    (accessOf (.record 0x8000020C000000AA#64) = some (8, 0x30C) ∧ ¬ Accepted State.reset.cfg 8 0x30C) ∧
    (accessOf (.record 0xFFFFFFFF00000000#64) = some (8, 0x400000FF) ∧
      ¬ Accepted State.reset.cfg 8 0x400000FF) := by decide

end Sys2Proof.Tests
end

/-! The statements of 00_scope.md: what one step of the host's events runs (R13, R213, R313, R315), and the
invariant of reset and step (R6, R201, R452 to R456, R700, R702). -/

/-! ### What a step runs -/

namespace Sys2Proof.Machine

/-- R213: a step answers the oldest event, on the state whose host no longer has it. -/
theorem step_of_program_cons {s : State} {e : HostEvent} {rest : List HostEvent}
    (hp : s.program = e :: rest) : step s = runEvent e (s.withProgram rest) := by
  rw [step, hp]

theorem runRecord_of_decode {r : Record} {i : Instr} (hd : decodeRecord r = .ok i) (s : State) :
    runRecord r s = exec i s := by
  rw [runRecord, hd]

/-- A command word decodes to an instruction through the command it names. -/
theorem decode_command_eq_ok_iff {w : Word} {i : Instr} :
    decode (.command w) = .ok i ↔ ∃ c, decodeCommand w = .ok c ∧ c.toInstr = i := by
  rw [decode]
  cases decodeCommand w with
  | error e => simp [Except.map]
  | ok c => simp [Except.map]

@[simp] theorem recKind_mkRecord (kind : BitVec 2) (off : BitVec 30) (data : Word) :
    recKind (mkRecord kind off data) = kind := by
  rw [recKind, mkRecord, BitVec.extractLsb'_append_eq_of_le (by decide)]
  exact BitVec.extractLsb'_append_eq_left

@[simp] theorem recOff_mkRecord (kind : BitVec 2) (off : BitVec 30) (data : Word) :
    recOff (mkRecord kind off data) = off := by
  rw [recOff, mkRecord, BitVec.extractLsb'_append_eq_of_le (by decide)]
  exact BitVec.extractLsb'_append_eq_right

@[simp] theorem recData_mkRecord (kind : BitVec 2) (off : BitVec 30) (data : Word) :
    recData (mkRecord kind off data) = data :=
  BitVec.extractLsb'_append_eq_right

/-- R315: 32 zero bits above a word are KIND 0 and the offset 0 of CMD. -/
theorem setWidth_eq_mkRecord (w : Word) : w.setWidth 64 = mkRecord 0#2 0#30 w := by
  rw [mkRecord, BitVec.zero_append_zero]
  exact BitVec.setWidth_eq_append (by decide)

/-- A record of KIND 0 is a REG_WRITE (R313). -/
theorem decodeRecord_mkRecord_zero (off : BitVec 30) (data : Word) :
    decodeRecord (mkRecord 0#2 off data) = .ok (.regWrite off data) := by
  simp [decodeRecord]

/-- R106: a write of offset 0 is a write of CMD. -/
theorem exec_regWrite_zero (w : Word) (s : State) : exec (.regWrite 0#30 w) s = writeCmd w s := rfl

theorem writeCmd_of_decodeCommand {w : Word} {c : Command} (hc : decodeCommand w = .ok c) (s : State) :
    writeCmd w s = exec c.toInstr s := by
  rw [writeCmd, hc, exec_toInstr]

/-- R11, R106, R315: the record of a legal command word runs the command. -/
theorem runRecord_setWidth_of_decode {w : Word} {i : Instr} (hd : decode (.command w) = .ok i) (s : State) :
    runRecord (w.setWidth 64) s = exec i s := by
  obtain ⟨c, hc, rfl⟩ := decode_command_eq_ok_iff.mp hd
  rw [setWidth_eq_mkRecord, runRecord_of_decode (decodeRecord_mkRecord_zero 0#30 w), exec_regWrite_zero,
    writeCmd_of_decodeCommand hc]

theorem ok_of_toOption_eq_some {d : Except DecodeError Instr} {i : Instr} (h : d.toOption = some i) :
    d = .ok i := by
  cases d with
  | error e => simp [Except.toOption] at h
  | ok j => simpa [Except.toOption] using h

/-- The two widths a row of the table has. -/
theorem decodeTableWord_eq_some {nbits w : Nat} {i : Instr} (h : decodeTableWord nbits w = some i) :
    (nbits = 32 ∧ decode (.command (BitVec.ofNat 32 w)) = .ok i) ∨
      (nbits = 64 ∧ decode (.record (BitVec.ofNat 64 w)) = .ok i) := by
  unfold decodeTableWord at h
  split at h
  · exact .inl ⟨rfl, ok_of_toOption_eq_some h⟩
  · exact .inr ⟨rfl, ok_of_toOption_eq_some h⟩
  · simp at h

/-- A 32-bit row's record is its command word with zeros above (R315). -/
theorem tableRecord_32 (w : Nat) : tableRecord 32 w = (BitVec.ofNat 32 w).setWidth 64 := by
  apply BitVec.eq_of_toNat_eq
  simp [tableRecord]

/-- A 64-bit row's record is the row's word (R313). -/
theorem tableRecord_64 (w : Nat) : tableRecord 64 w = BitVec.ofNat 64 w := by
  apply BitVec.eq_of_toNat_eq
  simp [tableRecord]

/-- The word put at the fetch is the event the next step answers, on the state as it was. -/
theorem step_withFetchWord (s : State) (nbits w : Nat) :
    step (s.withFetchWord nbits w) = runRecord (tableRecord nbits w) s := rfl

/-- Settles O5. -/
theorem stepRunsDecodedRecord : Obligations.StepRunsDecodedRecord := by
  intro s r rest i hp hd
  rw [step_of_program_cons hp]
  exact runRecord_of_decode hd _

/-- Settles O6: the record is a write of the word to CMD, which runs the command. -/
theorem stepRunsCommandWord : Obligations.StepRunsCommandWord := by
  intro s w rest i hp hd
  rw [step_of_program_cons hp]
  exact runRecord_setWidth_of_decode hd _

/-- Settles O7, by the two widths of the table's rows. -/
theorem stepRunsTableWord : Obligations.StepRunsTableWord := by
  intro s nbits w i h
  rw [step_withFetchWord]
  rcases decodeTableWord_eq_some h with ⟨rfl, hd⟩ | ⟨rfl, hd⟩
  · rw [tableRecord_32]
    exact runRecord_setWidth_of_decode hd s
  · rw [tableRecord_64]
    exact runRecord_of_decode hd s

/-- Settles O53. -/
theorem stepIssuesThePortAccess : Obligations.StepIssuesThePortAccess := by
  intro s a rest hp
  rw [step_of_program_cons hp]
  rfl

/-! ### The frame buffer's form after a field, the flags and the header are written -/

theorem Memory.memWrite_wf {m : Memory} (h : Memory.wf m) (o : ByteOrder) (i k v : Nat) :
    Memory.wf (Memory.memWrite o m i k v) := Memory.writeList_wf h i _

/-- An entry after `MemWrite` lies in the field or was there before. -/
theorem Memory.mem_memWrite {o : ByteOrder} {m : Memory} {i k v : Nat} {c : Host.Cell}
    (h : c ∈ Memory.memWrite o m i k v) : (i ≤ c.1 ∧ c.1 < i + k) ∨ c ∈ m := by
  simpa only [splitBytes_length] using Memory.mem_writeList h

theorem Memory.encodeFlags_wf {m : Memory} (h : Memory.wf m) (f : BitVec 4) :
    Memory.wf (Memory.encodeFlags m f) := Memory.writeList_wf h 4 _

/-- An entry after `EncodeFlags` is one of the four flag bytes or was there before. -/
theorem Memory.mem_encodeFlags {m : Memory} {f : BitVec 4} {c : Host.Cell}
    (h : c ∈ Memory.encodeFlags m f) : (4 ≤ c.1 ∧ c.1 < 8) ∨ c ∈ m :=
  Memory.mem_writeList h

theorem State.headerWritten_wf {s : State} (h : Memory.wf s.fb) : Memory.wf s.headerWritten :=
  Memory.memWrite_wf
    (Memory.encodeFlags_wf (Memory.memWrite_wf (Memory.memWrite_wf h _ _ _ _) _ _ _ _) _) _ _ _ _

/-- R402: BUILD's header adds entries below index HDR only. -/
theorem State.mem_headerWritten {s : State} {c : Host.Cell} (h : c ∈ s.headerWritten) :
    c.1 < hdr ∨ c ∈ s.fb := by
  rw [hdr]
  rcases Memory.mem_memWrite h with hlen | h
  · omega
  rcases Memory.mem_encodeFlags h with hflags | h
  · omega
  rcases Memory.mem_memWrite h with hack | h
  · omega
  rcases Memory.mem_memWrite h with hseq | h
  · omega
  · exact .inr h

end Sys2Proof.Machine

/-! ### The invariant -/

namespace Sys2Proof.Safety

open Sys2Proof.Machine

/-- The invariant reads three fields only. -/
theorem Inv.of_eq {s t : State} (h : Inv s) (hcfg : t.cfg = s.cfg) (hfb : t.fb = s.fb)
    (hres : t.res = s.res) : Inv t where
  cfg := hcfg ▸ h.cfg
  fb := hfb ▸ h.fb
  inside := hfb ▸ hcfg ▸ h.inside
  res := hres ▸ hcfg ▸ h.res

/-- A frame buffer that is replaced by a well-formed one inside the bounds. -/
theorem Inv.withFb {s : State} (h : Inv s) {m : Memory} (hwf : Memory.wf m)
    (hin : ∀ c ∈ m, c.1 < frameSize s.cfg) : Inv (s.withFb m) where
  cfg := h.cfg
  fb := hwf
  inside := hin
  res := h.res

theorem Inv.setFbByte {s : State} (h : Inv s) {i : Nat} (hi : i < frameSize s.cfg) (b : Byte) :
    Inv (s.setFbByte i b) := by
  refine h.withFb (Memory.write_wf h.fb i b) fun c hc => ?_
  rcases Memory.mem_write hc with rfl | hc
  · exact hi
  · exact h.inside c hc

theorem Inv.writeHeader {s : State} (h : Inv s) : Inv s.writeHeader := by
  refine h.withFb (State.headerWritten_wf h.fb) fun c hc => ?_
  rcases State.mem_headerWritten hc with hlt | hc
  · exact Nat.lt_of_lt_of_le hlt (Nat.le_add_right hdr s.cfg.cap)
  · exact h.inside c hc

/-- A result a command can produce stays one when RES takes it, 32 bits wide. -/
theorem Inv.finish {s : State} (h : Inv s) {v : Nat} (hv : v < s.cfg.n ∨ v ≤ 4) : Inv (s.finish v) where
  cfg := h.cfg
  fb := h.fb
  inside := h.inside
  res := by
    have hle : (BitVec.ofNat 32 v).toNat ≤ v := by
      rw [BitVec.toNat_ofNat]
      exact Nat.mod_le _ _
    exact hv.imp (Nat.lt_of_le_of_lt hle) (Nat.le_trans hle)

/-- R700: every block with legal parameters meets the invariant right after reset. -/
theorem inv_resetWith {p : Params} (hp : p.wf) (draw : Nat) : Inv (State.resetWith p draw) where
  cfg := hp
  fb := List.Pairwise.nil
  inside := fun _ hc => absurd hc List.not_mem_nil
  res := .inr (Nat.zero_le 4)

theorem Inv.applyReset {s : State} (h : Inv s) : Inv s.applyReset :=
  (inv_resetWith h.cfg (s.powerUp + 1)).of_eq rfl rfl rfl

theorem Inv.commandEffect {s t : State} (h : Inv s) (he : CommandEffect s t) : Inv t := by
  cases he with
  | failed code _ => exact h.of_eq rfl rfl rfl
  | built => exact h.writeHeader.of_eq rfl rfl rfl
  | parsed code => exact h.of_eq rfl rfl rfl
  | finished v hv => exact h.finish hv

theorem Inv.portEffect {s t : State} (h : Inv s) (he : PortEffect s t) : Inv t := by
  cases he with
  | command w _ hw =>
    obtain ⟨t', ht', heff⟩ := writeCmd_effect w s
    obtain rfl : t' = t := by simpa [ht'] using hw
    exact h.commandEffect heff
  | stored r w =>
    obtain ⟨hcfg, -, hres, hfb, -⟩ := s.writeReg_frame r w
    exact h.of_eq hcfg hfb hres
  | gave v => exact h.of_eq rfl rfl rfl
  | wrote i b hi => exact h.setFbByte hi b

/-- Settles O49. -/
theorem resetMeetsTheInvariant : Obligations.ResetMeetsTheInvariant :=
  ⟨inv_resetWith (by decide) 0, fun _ draw hp => inv_resetWith hp draw⟩

/-- Settles O50, by what a step can do (`step_cases`): nothing, a reset, or the effect of an accepted access,
each of which keeps the invariant. -/
theorem stepKeepsTheInvariant : Obligations.StepKeepsTheInvariant := by
  intro s t h hs
  rcases step_cases hs with ⟨-, rfl⟩ | ⟨e, rest, -, hevent⟩
  · exact h
  have hrest : Inv (s.withProgram rest) := h.of_eq rfl rfl rfl
  rcases hevent with ⟨-, rfl⟩ | ⟨-, heff⟩
  · exact hrest.applyReset
  · exact hrest.portEffect heff

end Sys2Proof.Safety

/-! The statements of 10_state.md: what the registers store and read (R103, R104, R107, R112, R114), when RES
changes (R111), and what of the state a command reads (R115, R306). -/

/-! ### The bits a register stores and the bits it shows -/

namespace Sys2Proof.Safety

open Sys2Proof.Machine

/-- How many low bits of a register a write stores (R112). -/
def writableWidth : Reg → Nat
  | .seq | .ack => 16
  | .flags => 4
  | .len | .opa | .opb | .opc => 32
  | .cmd | .status | .res | .cfgN | .cfgCap | .cfgHdr | .cfgOrder => 0

/-- How many low bits of a register can read as something other than 0 (R112). -/
def readableWidth : Reg → Nat
  | .cmd => 0
  | .status => 4
  | .seq | .ack => 16
  | .flags => 5
  | .cfgOrder => 1
  | .len | .opa | .opb | .opc | .res | .cfgN | .cfgCap | .cfgHdr => 32

theorem writableBits_eq (r : Reg) : writableBits r = (BitVec.allOnes (writableWidth r)).setWidth 32 := by
  cases r <;> rfl

theorem readableBits_eq (r : Reg) : readableBits r = (BitVec.allOnes (readableWidth r)).setWidth 32 := by
  cases r <;> rfl

theorem writableWidth_le (r : Reg) : writableWidth r ≤ 32 := by cases r <;> decide

theorem writableBits_getLsbD (r : Reg) (k : Nat) :
    (writableBits r).getLsbD k = decide (k < writableWidth r) := by
  have hle := writableWidth_le r
  rw [writableBits_eq, BitVec.getLsbD_setWidth, BitVec.getLsbD_allOnes, ← Bool.decide_and]
  exact decide_eq_decide.mpr ⟨And.right, fun hk => ⟨by omega, hk⟩⟩

/-- A value below `2 ^ n` has no bit outside the `n` low ones. -/
theorem and_not_allOnes_eq_zero {x : Word} {n : Nat} (hx : x.toNat < 2 ^ n) :
    x &&& ~~~ ((BitVec.allOnes n).setWidth 32) = 0#32 := by
  apply BitVec.eq_of_getLsbD_eq
  intro k hk
  by_cases hkn : k < n
  · simp [hk, hkn]
  · have hbit : x.getLsbD k = false :=
      Nat.testBit_lt_two_pow (Nat.lt_of_lt_of_le hx (Nat.pow_le_pow_right (by decide) (by omega)))
    simp [hbit]

end Sys2Proof.Safety

namespace Sys2Proof.Machine

open Sys2Proof.Safety

theorem StatusCode.number_toNat_le (c : StatusCode) : c.number.toNat ≤ 3 := by cases c <;> decide

/-- A field of `n` bits reads as a value of `n` bits. -/
theorem toNat_setWidth_word_lt {n : Nat} (v : BitVec n) : (v.setWidth 32).toNat < 2 ^ n := by
  rw [BitVec.toNat_setWidth]
  exact Nat.lt_of_le_of_lt (Nat.mod_le _ _) v.isLt

/-- R112, R114: what a register reads as fits the bits it shows. -/
theorem State.readReg_toNat_lt (s : State) (r : Reg) : (s.readReg r).toNat < 2 ^ readableWidth r := by
  cases r with
  | cmd => exact Nat.one_pos
  | status => exact toNat_setWidth_word_lt s.status.number
  | seq => exact toNat_setWidth_word_lt s.seq
  | ack => exact toNat_setWidth_word_lt s.ack
  | flags => exact toNat_setWidth_word_lt (BitVec.ofBool (ackLike s.flags) ++ s.flags)
  | cfgOrder =>
    show (orderCode s.cfg.order).toNat < 2 ^ 1
    cases s.cfg.order <;> decide
  | len | opa | opb | opc | res | cfgN | cfgCap | cfgHdr => exact BitVec.isLt _

/-- Settles O19: each register's value fits its bits, and a status code's number is at most 3 (R602). -/
theorem reservedBitsReadZero : Obligations.ReservedBitsReadZero := by
  intro s r
  constructor
  · rw [readableBits_eq]
    exact and_not_allOnes_eq_zero (s.readReg_toNat_lt r)
  · have hread : (s.readReg .status).toNat = s.status.number.toNat :=
      BitVec.toNat_setWidth_of_le (by decide)
    rw [hread]
    exact s.status.number_toNat_le

/-! ### Writing a register and reading it back -/

/-- R480: a write of a register that is not CMD is the register's own. -/
theorem exec_regWrite_offset {r : Reg} (hr : r ≠ .cmd) (w : Word) (s : State) :
    exec (.regWrite r.offset w) s = .next (s.writeReg r w) := by
  cases r with
  | cmd => exact absurd rfl hr
  | _ => rfl

/-- R481: a read of a register returns what it reads as. -/
theorem exec_regRead_offset (r : Reg) (s : State) :
    exec (.regRead r.offset) s = .next (s.give (.word (s.readReg r))) := by
  rw [exec, execRegRead, regReadAt, regAt_offset]

/-- A field of `n` bits that took a word's low bits reads them, and above them what it always reads. -/
theorem getLsbD_setWidth_setWidth_word {n : Nat} (hn : n ≤ 32) (old : BitVec n) (w : Word) (k : Nat) :
    ((w.setWidth n).setWidth 32).getLsbD k = if k < n then w.getLsbD k else (old.setWidth 32).getLsbD k := by
  rw [BitVec.getLsbD_setWidth, BitVec.getLsbD_setWidth, BitVec.getLsbD_setWidth]
  by_cases hk : k < n
  · have hk32 : k < 32 := by omega
    simp [hk, hk32]
  · have hold : old.getLsbD k = false := old.getLsbD_of_ge k (by omega)
    simp [hk, hold]

theorem getLsbD_word_eq_ite (old w : Word) (k : Nat) :
    w.getLsbD k = if k < 32 then w.getLsbD k else old.getLsbD k := by
  simpa only [BitVec.setWidth_eq] using getLsbD_setWidth_setWidth_word (Nat.le_refl 32) old w k

/-- R114: what a register reads after a write of it, ACKLIKE aside. -/
theorem State.readReg_writeReg_getLsbD (s : State) (r : Reg) (w : Word) {k : Nat} (hk : r = .flags → k ≠ 4) :
    ((s.writeReg r w).readReg r).getLsbD k =
      if k < writableWidth r then w.getLsbD k else (s.readReg r).getLsbD k := by
  cases r with
  | seq => exact getLsbD_setWidth_setWidth_word (by decide) s.seq w k
  | ack => exact getLsbD_setWidth_setWidth_word (by decide) s.ack w k
  | flags =>
    have hk4 : k ≠ 4 := hk rfl
    show (flagsWord (w.setWidth 4)).getLsbD k = if k < 4 then w.getLsbD k else (flagsWord s.flags).getLsbD k
    rw [flagsWord_getLsbD, flagsWord_getLsbD, BitVec.getLsbD_setWidth]
    by_cases hlow : k < 4 <;> simp [hlow, hk4]
  | len => exact getLsbD_word_eq_ite s.len w k
  | opa => exact getLsbD_word_eq_ite s.opa w k
  | opb => exact getLsbD_word_eq_ite s.opb w k
  | opc => exact getLsbD_word_eq_ite s.opc w k
  | cmd | status | res | cfgN | cfgCap | cfgHdr | cfgOrder => exact (if_neg (Nat.not_lt_zero k)).symm

/-- Settles O18. -/
theorem registerReadBack : Obligations.RegisterReadBack := by
  intro s r w hr
  obtain ⟨-, -, -, -, -, -, hreturned⟩ := s.writeReg_frame r w
  refine ⟨_, _, (s.writeReg r w).readReg r, exec_regWrite_offset hr w s, exec_regRead_offset r _, ?_,
    fun k hk => ?_⟩
  · rw [State.give_returned, hreturned]
  · simp only [writableBits_getLsbD, decide_eq_true_eq]
    exact s.readReg_writeReg_getLsbD r w hk

/-! ### ACKLIKE -/

/-- R104: FLAGS stores bits 3 to 0 of what is written, so bit 4 is dropped. -/
theorem State.writeReg_flags_xor_bit4 (s : State) (w : Word) :
    s.writeReg .flags (w ^^^ 0x10#32) = s.writeReg .flags w := by
  have hlow : (w ^^^ 0x10#32).setWidth 4 = w.setWidth 4 := by
    rw [BitVec.setWidth_xor]
    exact BitVec.xor_zero
  rw [State.writeReg, State.writeReg, hlow]

/-- Settles O20. -/
theorem acklikeFollowsTheFlags : Obligations.AcklikeFollowsTheFlags := by
  intro s w
  constructor
  · show (flagsWord s.flags).getLsbD 4 = ((flagsWord s.flags).getLsbD 2 || (flagsWord s.flags).getLsbD 3)
    rw [flagsWord_getLsbD, flagsWord_getLsbD, flagsWord_getLsbD]
    rfl
  · have hwrite (v : Word) : exec (.regWrite 0x10#30 v) s = .next (s.writeReg .flags v) :=
      exec_regWrite_offset (r := .flags) (by decide) v s
    rw [hwrite, hwrite, State.writeReg_flags_xor_bit4]

/-! ### RES -/

/-- R309: a command word is its RSV above its OP. -/
theorem cmdRsv_append_cmdOp (w : Word) : cmdRsv w ++ cmdOp w = w :=
  (BitVec.extractLsb'_append_extractLsb'_eq_extractLsb' rfl).trans BitVec.extractLsb'_eq_self

/-- R309: with RSV 0 a command word is its OP. -/
theorem eq_setWidth_cmdOp {w : Word} (hrsv : cmdRsv w = 0#28) : w = (cmdOp w).setWidth 32 :=
  calc w = cmdRsv w ++ cmdOp w := (cmdRsv_append_cmdOp w).symm
    _ = 0#28 ++ cmdOp w := congrArg (· ++ cmdOp w) hrsv
    _ = (cmdOp w).setWidth 32 := (BitVec.setWidth_eq_append (by decide)).symm

/-- R310: the command map is the commands' words, read backwards. -/
theorem commandOfOp_eq_ok {op : BitVec 4} {c : Command} (h : commandOfOp op = .ok c) :
    op.setWidth 32 = c.word := by
  unfold commandOfOp at h
  split at h <;> cases h
  all_goals
    rename_i hop
    apply BitVec.eq_of_toNat_eq
    simp [hop, Command.word]

/-- R309, R310: only a command's own word decodes to it. -/
theorem decodeCommand_eq_ok {w : Word} {c : Command} (h : decodeCommand w = .ok c) : w = c.word := by
  unfold decodeCommand at h
  split at h
  · rename_i hrsv
    exact (eq_setWidth_cmdOp hrsv).trans (commandOfOp_eq_ok h)
  · cases h

/-- R313: a record is its three fields. -/
theorem mkRecord_fields (r : Record) : mkRecord (recKind r) (recOff r) (recData r) = r :=
  calc (recKind r ++ recOff r) ++ recData r
      = r.extractLsb' 32 32 ++ recData r :=
        congrArg (· ++ recData r) (BitVec.extractLsb'_append_extractLsb'_eq_extractLsb' rfl)
    _ = r := (BitVec.extractLsb'_append_extractLsb'_eq_extractLsb' rfl).trans BitVec.extractLsb'_eq_self

/-- R313: what a record can decode to; only a record of KIND 0 is a REG_WRITE. -/
theorem decodeRecord_cases {r : Record} {i : Instr} (h : decodeRecord r = .ok i) :
    ∃ off data, (r = mkRecord 0#2 off data ∧ i = .regWrite off data) ∨ i = .regRead off ∨
      i = .fbWrite off data ∨ i = .fbRead off := by
  refine ⟨recOff r, recData r, ?_⟩
  unfold decodeRecord at h
  split at h
  · rename_i hkind
    have hk : recKind r = 0#2 := BitVec.eq_of_toNat_eq hkind
    cases h
    exact .inl ⟨by rw [← hk, mkRecord_fields], rfl⟩
  · split at h <;> cases h
    exact .inr (.inl rfl)
  · split at h <;> cases h
    exact .inr (.inr (.inl rfl))
  · split at h <;> cases h
    exact .inr (.inr (.inr rfl))

/-- RES and STATUS are as they were (R107, R111). -/
abbrev SameOutcome (s t : State) : Prop := t.res = s.res ∧ t.status = s.status

/-- R106, R480: a register write is the CMD write at offset 0 or keeps RES and STATUS. -/
theorem regWriteAt_cases {o : Nat} {w : Word} {s t : State} (h : regWriteAt o w s = .next t) :
    (o = 0 ∧ writeCmd w s = .next t) ∨ SameOutcome s t := by
  unfold regWriteAt at h
  split at h
  · cases h
  · rename_i hcmd
    exact .inl ⟨regAt_eq_cmd hcmd, h⟩
  · rename_i r _ _
    obtain ⟨-, hstatus, hres, -⟩ := s.writeReg_frame r w
    cases h
    exact .inr ⟨hres, hstatus⟩

theorem fbWriteAt_sameOutcome {i : Nat} {b : Byte} {s t : State} (h : fbWriteAt i b s = .next t) :
    SameOutcome s t := by
  obtain ⟨-, rfl⟩ := fbWriteAt_effect h
  exact ⟨rfl, rfl⟩

theorem regReadAt_sameOutcome {o : Nat} {s t : State} (h : regReadAt o s = .next t) : SameOutcome s t := by
  obtain ⟨v, rfl⟩ := regReadAt_effect h
  exact ⟨rfl, rfl⟩

theorem fbReadAt_sameOutcome {i : Nat} {s t : State} (h : fbReadAt i s = .next t) : SameOutcome s t := by
  obtain ⟨v, rfl⟩ := fbReadAt_effect h
  exact ⟨rfl, rfl⟩

/-- R106, R313: a record is a CMD write or keeps RES and STATUS. -/
theorem runRecord_cases {r : Record} {s t : State} (h : runRecord r s = .next t) :
    (∃ w, IsCmdWrite (.record r) w ∧ writeCmd w s = .next t) ∨ SameOutcome s t := by
  unfold runRecord at h
  split at h
  · rename_i i hi
    obtain ⟨off, data, ⟨rfl, rfl⟩ | rfl | rfl | rfl⟩ := decodeRecord_cases hi
    · refine (regWriteAt_cases h).imp_left fun ⟨hoff, hw⟩ => ⟨data, .inl ?_, hw⟩
      rw [setWidth_eq_mkRecord, BitVec.eq_of_toNat_eq (y := 0#30) hoff]
    · exact .inr (regReadAt_sameOutcome h)
    · exact .inr (fbWriteAt_sameOutcome h)
    · exact .inr (fbReadAt_sameOutcome h)
  · cases h

/-- R106, R202: a port access is a CMD write or keeps RES and STATUS. -/
theorem portAccess_cases {a : PortAccess} {s t : State} (h : portAccess a s = .next t) :
    (∃ w, IsCmdWrite (.access a) w ∧ writeCmd w s = .next t) ∨ SameOutcome s t := by
  cases a with
  | read width off =>
    simp only [portAccess] at h
    split_ifs at h
    · cases h
    · exact .inr (regReadAt_sameOutcome h)
    · cases h
    · exact .inr (fbReadAt_sameOutcome h)
  | write width off data =>
    simp only [portAccess] at h
    split_ifs at h with hlow hwidth
    · cases h
    · refine (regWriteAt_cases h).imp_left fun ⟨hoff, hw⟩ => ⟨data, .inr ?_, hw⟩
      rw [not_not.mp hwidth, BitVec.eq_of_toNat_eq (y := 0#32) hoff]
    · cases h
    · exact .inr (fbWriteAt_sameOutcome h)

/-- What an event is that answers a next state: a reset, a CMD write, or one that keeps RES and STATUS. -/
theorem runEvent_cases {e : HostEvent} {s t : State} (h : runEvent e s = .next t) :
    e = .reset ∨ (∃ w, IsCmdWrite e w ∧ writeCmd w s = .next t) ∨ SameOutcome s t := by
  cases e with
  | reset => exact .inl rfl
  | record r => exact .inr (runRecord_cases h)
  | access a => exact .inr (portAccess_cases h)

/-- R111: BUILD does not write RES. -/
theorem execBuild_res {s t : State} (h : execBuild s = .next t) : t.res = s.res := by
  unfold execBuild at h
  split_ifs at h <;> cases h <;> rfl

/-- R111: PARSE does not write RES. -/
theorem execParse_res {s t : State} (h : execParse s = .next t) : t.res = s.res := by
  unfold execParse at h
  split_ifs at h <;> cases h <;> rfl

/-- What a command did, when its next state is known. -/
theorem runCommand_effect_of_next {c : Command} {s t : State} (h : runCommand c s = .next t) :
    CommandEffect s t := by
  obtain ⟨t', ht', heff⟩ := runCommand_effect c s
  cases ht'.symm.trans h
  exact heff

/-- R601: a failing command does not write RES. -/
theorem CommandEffect.status_of_res_ne {s t : State} (he : CommandEffect s t) (hres : t.res ≠ s.res) :
    t.status = .ok := by
  cases he with
  | failed code _ => exact absurd rfl hres
  | built => rfl
  | parsed code => exact absurd rfl hres
  | finished v _ => rfl

/-- R111: the words of the commands that write RES. -/
theorem word_range_of_res_ne {c : Command} {s t : State} (h : runCommand c s = .next t)
    (hres : t.res ≠ s.res) : 3 ≤ c.word.toNat ∧ c.word.toNat ≤ 7 := by
  cases c with
  | build => exact absurd (execBuild_res h) hres
  | parse => exact absurd (execParse_res h) hres
  | seqAdd | seqSub | seqCmp | seqInwin | endSeq => decide

/-- R111: a CMD write that changes RES. -/
theorem writeCmd_of_res_ne {w : Word} {s t : State} (h : writeCmd w s = .next t) (hres : t.res ≠ s.res) :
    3 ≤ w.toNat ∧ w.toNat ≤ 7 ∧ t.status = .ok := by
  unfold writeCmd at h
  split at h
  · rename_i c hc
    obtain rfl := decodeCommand_eq_ok hc
    obtain ⟨hlow, hhigh⟩ := word_range_of_res_ne h hres
    exact ⟨hlow, hhigh, (runCommand_effect_of_next h).status_of_res_ne hres⟩
  · cases h
    exact absurd rfl hres

/-- Settles O42, by what an event can be (`runEvent_cases`). -/
theorem resIsWrittenBySuccessfulSequenceCommandsOnly :
    Obligations.ResIsWrittenBySuccessfulSequenceCommandsOnly := by
  intro s t e rest hp hs hres
  rw [step_of_program_cons hp] at hs
  rcases runEvent_cases hs with hreset | ⟨w, hcmd, hw⟩ | ⟨hkeep, -⟩
  · exact .inl hreset
  · exact .inr ⟨w, hcmd, writeCmd_of_res_ne hw hres⟩
  · exact absurd hkeep hres

/-! ### What of the state a command reads -/

/-- Two states agree on all a command reads: the registers, the parameters and the header bytes (R115, R306). -/
structure Agree (s t : State) : Prop where
  regs : SameRegisters s t
  header : SameHeader s t

/-- States with the same registers and parameters differ in the frame buffer and the host's side only. -/
theorem exists_eq_of_sameRegisters {s t : State} (h : SameRegisters s t) :
    ∃ m p es rs, t = { s with fb := m, powerUp := p, program := es, returned := rs } := by
  obtain ⟨hcfg, hseq, hack, hflags, hlen, hstatus, hopa, hopb, hopc, hres⟩ := h
  refine ⟨t.fb, t.powerUp, t.program, t.returned, ?_⟩
  rw [hcfg, hseq, hack, hflags, hlen, hstatus, hopa, hopb, hopc, hres]

theorem Agree.memRead {s t : State} (h : Agree s t) {i k : Nat} (hik : i + k ≤ hdr) :
    s.memRead i k = t.memRead i k :=
  State.memRead_congr h.regs.1 fun d _ hd => h.header d (by omega)

theorem Agree.decodeFlags {s t : State} (h : Agree s t) : s.decodeFlags = t.decodeFlags :=
  State.decodeFlags_congr fun i _ hi => h.header i (Nat.lt_trans hi (by decide))

theorem Agree.withStatus {s t : State} (h : Agree s t) (c : StatusCode) :
    Agree (s.withStatus c) (t.withStatus c) := by
  obtain ⟨hregs, hheader⟩ := h
  obtain ⟨m, p, es, rs, rfl⟩ := exists_eq_of_sameRegisters hregs
  exact ⟨⟨rfl, rfl, rfl, rfl, rfl, rfl, rfl, rfl, rfl, rfl⟩, hheader⟩

theorem Agree.finish {s t : State} (h : Agree s t) (v : Nat) : Agree (s.finish v) (t.finish v) := by
  obtain ⟨hregs, hheader⟩ := h
  obtain ⟨m, p, es, rs, rfl⟩ := exists_eq_of_sameRegisters hregs
  exact ⟨⟨rfl, rfl, rfl, rfl, rfl, rfl, rfl, rfl, rfl, rfl⟩, hheader⟩

/-- R402: the header BUILD lays out is made of the registers. -/
theorem Agree.writeHeader {s t : State} (h : Agree s t) : Agree s.writeHeader t.writeHeader := by
  obtain ⟨hregs, hheader⟩ := h
  obtain ⟨m, p, es, rs, rfl⟩ := exists_eq_of_sameRegisters hregs
  refine ⟨⟨rfl, rfl, rfl, rfl, rfl, rfl, rfl, rfl, rfl, rfl⟩, fun i hi => ?_⟩
  rw [State.fbByte_writeHeader, State.fbByte_writeHeader, hheader i hi]

/-- R403: what PARSE loads is made of the header bytes. -/
theorem Agree.loadHeader {s t : State} (h : Agree s t) : Agree s.loadHeader t.loadHeader := by
  have hseq := congrArg (BitVec.ofNat 16) (h.memRead (i := 0) (k := 2) (by decide))
  have hack := congrArg (BitVec.ofNat 16) (h.memRead (i := 2) (k := 2) (by decide))
  have hlen := congrArg (BitVec.ofNat 32) (h.memRead (i := 8) (k := 4) (by decide))
  have hflags := h.decodeFlags
  obtain ⟨⟨hcfg, -, -, -, -, hstatus, hopa, hopb, hopc, hres⟩, hheader⟩ := h
  exact ⟨⟨hcfg, hseq, hack, hflags, hlen, hstatus, hopa, hopb, hopc, hres⟩, hheader⟩

/-- Two checks that come out alike, with ends that agree. -/
theorem Agree.ite {p q : Prop} [Decidable p] [Decidable q] (hpq : p ↔ q) {s s' t t' : State}
    (h : Agree s t) (h' : Agree s' t') : Agree (if p then s else s') (if q then t else t') := by
  by_cases hp : p
  · rwa [if_pos hp, if_pos (hpq.mp hp)]
  · rwa [if_neg hp, if_neg (mt hpq.mpr hp)]

/-- R306: every check and every result of a command is one of the registers, the parameters and the header
bytes, so that states that agree on those agree after it. -/
theorem runCommand_agree (c : Command) {s t : State} (h : Agree s t) :
    ∃ s' t', runCommand c s = .next s' ∧ runCommand c t = .next t' ∧ Agree s' t' := by
  have hseq := h.memRead (i := 0) (k := 2) (by decide)
  have hack := h.memRead (i := 2) (k := 2) (by decide)
  have hlen := h.memRead (i := 8) (k := 4) (by decide)
  obtain ⟨m, p, es, rs, rfl⟩ := exists_eq_of_sameRegisters h.regs
  cases c with
  | build =>
    exact ⟨_, _, rfl, rfl, .ite .rfl (h.withStatus _)
      (.ite .rfl (h.withStatus _) (h.writeHeader.withStatus _))⟩
  | parse =>
    refine ⟨_, _, rfl, rfl, .ite ?_ (h.loadHeader.withStatus _)
      (.ite ?_ (h.loadHeader.withStatus _) (h.loadHeader.withStatus _))⟩
    · rw [hlen]
    · rw [hseq, hack]
  | seqAdd => exact ⟨_, _, rfl, rfl, .ite .rfl (h.withStatus _) (h.finish _)⟩
  | seqSub => exact ⟨_, _, rfl, rfl, .ite .rfl (h.withStatus _) (h.finish _)⟩
  | seqCmp => exact ⟨_, _, rfl, rfl, .ite .rfl (h.withStatus _) (h.finish _)⟩
  | seqInwin => exact ⟨_, _, rfl, rfl, .ite .rfl (h.withStatus _) (h.finish _)⟩
  | endSeq => exact ⟨_, _, rfl, rfl, .ite .rfl (h.withStatus _) (.ite .rfl (h.withStatus _) (h.finish _))⟩

/-- R115, R402: no command writes a payload byte. -/
theorem CommandEffect.fbByte_payload {s t : State} (he : CommandEffect s t) {i : Nat} (hi : 12 ≤ i) :
    t.fbByte i = s.fbByte i := by
  cases he with
  | failed code _ => rfl
  | built =>
    rw [State.fbByte_done, State.fbByte_writeHeader, if_neg (by omega), if_neg (by omega), if_neg (by omega),
      if_neg (by omega)]
  | parsed code => rfl
  | finished v _ => rfl

/-- Settles O46. -/
theorem payloadNeverMatters : Obligations.PayloadNeverMatters := by
  intro c s t hregs hheader
  obtain ⟨s', t', hs, ht, hagree⟩ := runCommand_agree c ⟨hregs, hheader⟩
  refine ⟨s', t', (exec_toInstr c s).trans hs, (exec_toInstr c t).trans ht, hagree.regs, hagree.header,
    fun i hi => ⟨?_, ?_⟩⟩
  · exact (runCommand_effect_of_next hs).fbByte_payload hi
  · exact (runCommand_effect_of_next ht).fbByte_payload hi

end Sys2Proof.Machine

/-! The statements of 20_memory.md: the transactions as port accesses (R202, R313), the latest write to a byte
(R213, R482, R483), the byte order of a field (R205), and a CMD write done twice (R402, R403, section 4). -/

/-! ### The transactions on the port -/

namespace Sys2Proof.Machine

/-- R113, R202: no register lies in the frame buffer's part of the port. -/
theorem regAt_eq_none_of_ge {o : Nat} (h : fbBase ≤ o) : regAt o = none :=
  (regAt_eq_none_iff o).mpr (.inr (Nat.le_trans (by decide) h))

/-- R208: a 32-bit write on the port is a register write, from 0x100 on one of no register. -/
theorem portAccess_write_32 (off data : Word) (s : State) :
    portAccess (.write 32 off data) s = regWriteAt off.toNat data s := by
  by_cases hlow : off.toNat < fbBase
  · simp [portAccess, hlow]
  · simp [portAccess, hlow, regWriteAt, regAt_eq_none_of_ge (Nat.not_lt.mp hlow)]

/-- R208: a 32-bit read on the port is a register read, from 0x100 on one of no register. -/
theorem portAccess_read_32 (off : Word) (s : State) :
    portAccess (.read 32 off) s = regReadAt off.toNat s := by
  by_cases hlow : off.toNat < fbBase
  · simp [portAccess, hlow]
  · simp [portAccess, hlow, regReadAt, regAt_eq_none_of_ge (Nat.not_lt.mp hlow)]

/-- R313: a record's OFF is itself as a port offset. -/
theorem toNat_setWidth_off (off : BitVec 30) : (off.setWidth 32).toNat = off.toNat :=
  BitVec.toNat_setWidth_of_le (by decide)

/-- R202: frame-buffer index OFF lies at `0x100 + OFF`, which 32 bits hold for every OFF. -/
theorem toNat_fbBase_add_off (off : BitVec 30) : (0x100#32 + off.setWidth 32).toNat = fbBase + off.toNat := by
  have hoff : off.toNat < 2 ^ 30 := off.isLt
  rw [BitVec.toNat_add, toNat_setWidth_off]
  simp only [fbBase, BitVec.toNat_ofNat]
  omega

/-- R209: an 8-bit write at `0x100 + i` is a write of frame-buffer index `i`. -/
theorem portAccess_write_8 {off : Word} {i : Nat} (hoff : off.toNat = fbBase + i) (data : Word) (s : State) :
    portAccess (.write 8 off data) s = fbWriteAt i (data.setWidth 8) s := by
  simp [portAccess, hoff]

/-- R209: an 8-bit read at `0x100 + i` is a read of frame-buffer index `i`. -/
theorem portAccess_read_8 {off : Word} {i : Nat} (hoff : off.toNat = fbBase + i) (s : State) :
    portAccess (.read 8 off) s = fbReadAt i s := by
  simp [portAccess, hoff]

/-- Settles O11: past 0x100 a register access is refused on either side, at the same offset. -/
theorem transactionsArePortAccesses : Obligations.TransactionsArePortAccesses := by
  intro s off data
  have hfb := toNat_fbBase_add_off off
  refine ⟨?_, ?_, (portAccess_write_8 hfb data s).symm, (portAccess_read_8 hfb s).symm⟩
  · rw [portAccess_write_32, toNat_setWidth_off]; rfl
  · rw [portAccess_read_32, toNat_setWidth_off]; rfl

/-! ### The latest write to a byte -/

/-- R482: an FB_WRITE inside the frame buffer puts DATA's low byte there. -/
theorem exec_fbWrite_of_lt {s : State} {i : BitVec 30} (hi : i.toNat < frameSize s.cfg) (data : Word) :
    exec (.fbWrite i data) s = .next (s.setFbByte i.toNat (data.setWidth 8)) :=
  if_neg (Nat.not_le.mpr hi)

/-- R483: an FB_READ inside the frame buffer returns the byte there. -/
theorem exec_fbRead_of_lt {s : State} {i : BitVec 30} (hi : i.toNat < frameSize s.cfg) :
    exec (.fbRead i) s = .next (s.give (.byte (s.fbByte i.toNat))) :=
  if_neg (Nat.not_le.mpr hi)

/-- Settles O16: the second write is of another index, so both bytes are as last written. -/
theorem fbReadReturnsTheLatestWrite : Obligations.FbReadReturnsTheLatestWrite := by
  intro s i j b c hi hj hij
  have hne : i.toNat ≠ j.toNat := mt BitVec.eq_of_toNat_eq hij
  refine ⟨_, _, _, _, exec_fbWrite_of_lt hi b, exec_fbWrite_of_lt (s := s.setFbByte _ _) hj c,
    exec_fbRead_of_lt (s := (s.setFbByte _ _).setFbByte _ _) hi,
    exec_fbRead_of_lt (s := ((s.setFbByte _ _).setFbByte _ _).give _) hj, ?_⟩
  simp only [State.give_returned, State.setFbByte_returned, State.fbByte_give, State.fbByte_setFbByte_same,
    State.fbByte_setFbByte_ne _ _ hne, List.append_assoc]
  rfl

/-! ### The byte order of a field -/

/-- R205: least significant byte first, byte `k` stands for `256 ^ k`. -/
theorem assembleLE_eq_sum (bs : List Byte) :
    assembleLE bs = ∑ k ∈ Finset.range bs.length, (bs.getD k 0#8).toNat * 256 ^ k := by
  induction bs with
  | nil => rfl
  | cons b bs ih =>
    rw [assembleLE, ih, List.length_cons, Finset.sum_range_succ', Finset.mul_sum, Nat.add_comm]
    congr 1
    · refine Finset.sum_congr rfl fun k _ => ?_
      rw [List.getD_cons_succ, Nat.pow_succ']
      exact Nat.mul_left_comm _ _ _
    · rw [List.getD_cons_zero, Nat.pow_zero, Nat.mul_one]

/-- The bytes backwards, entry by entry. -/
theorem getD_reverse {bs : List Byte} {k : Nat} (hk : k < bs.length) :
    bs.reverse.getD k 0#8 = bs.getD (bs.length - 1 - k) 0#8 := by
  rw [List.getD_eq_getElem?_getD, List.getElem?_reverse hk, ← List.getD_eq_getElem?_getD]

/-- R205: a field's value is the sum of its bytes at their weights. -/
theorem assemble_eq_sum (o : ByteOrder) (bs : List Byte) :
    assemble o bs =
      ∑ k ∈ Finset.range bs.length, (bs.getD k 0#8).toNat * 256 ^ Safety.byteWeight o bs.length k := by
  cases o with
  | le => exact assembleLE_eq_sum bs
  | be =>
    rw [assemble, assembleLE_eq_sum, List.length_reverse, ← Finset.sum_range_reflect]
    refine Finset.sum_congr rfl fun k hk => ?_
    have hlt : k < bs.length := Finset.mem_range.mp hk
    have hback : bs.length - 1 - (bs.length - 1 - k) = k := by omega
    rw [getD_reverse (by omega), hback, Safety.byteWeight]

/-- R205: least significant byte first, byte `d` of a value is its digit at `256 ^ d`. -/
theorem splitLE_getD {m d : Nat} (hd : d < m) (v : Nat) :
    (splitLE m v).getD d 0#8 = BitVec.ofNat 8 (v / 256 ^ d) := by
  induction m generalizing v d with
  | zero => omega
  | succ m ih =>
    cases d with
    | zero => rw [splitLE, List.getD_cons_zero, Nat.pow_zero, Nat.div_one]
    | succ d => rw [splitLE, List.getD_cons_succ, ih (by omega), Nat.div_div_eq_div_mul, Nat.pow_succ']

/-- R205: byte `d` of a value laid out in a field is its digit at that byte's weight. -/
theorem splitBytes_getD (o : ByteOrder) {m d : Nat} (hd : d < m) (v : Nat) :
    (splitBytes o m v).getD d 0#8 = BitVec.ofNat 8 (v / 256 ^ Safety.byteWeight o m d) := by
  cases o with
  | le => exact splitLE_getD hd v
  | be =>
    rw [splitBytes, getD_reverse (by rwa [splitLE_length]), splitLE_length, splitLE_getD (by omega),
      Safety.byteWeight]

/-- R205: `MemRead` is the sum of the field's bytes at their weights. -/
theorem State.memRead_eq_sum (s : State) (i m : Nat) :
    s.memRead i m =
      ∑ k ∈ Finset.range m, (s.fbByte (i + k)).toNat * 256 ^ Safety.byteWeight s.cfg.order m k := by
  rw [State.memRead, assemble_eq_sum, State.fbBytes_length]
  refine Finset.sum_congr rfl fun k hk => ?_
  rw [List.getD_eq_getElem?_getD, State.fbBytes_getElem?, if_pos (Finset.mem_range.mp hk), Option.getD_some]

/-- R205: `MemWrite` puts the value's digit of each byte's weight at that byte. -/
theorem State.fbByte_memWrite_inside (s : State) (i v : Nat) {m k : Nat} (hk : k < m) :
    (s.withFb (Memory.memWrite s.cfg.order s.fb i m v)).fbByte (i + k) =
      BitVec.ofNat 8 (v / 256 ^ Safety.byteWeight s.cfg.order m k) := by
  rw [State.fbByte_memWrite, if_pos (by omega), Nat.add_sub_cancel_left, splitBytes_getD _ hk]

/-- Settles O21. -/
theorem memReadAndMemWriteFollowByteOrder : Obligations.MemReadAndMemWriteFollowByteOrder := by
  intro s i m v
  exact ⟨s.memRead_eq_sum i m, _, rfl, fun k hk => s.fbByte_memWrite_inside i v hk,
    fun j hj => s.fbByte_memWrite_outside i m v hj⟩

/-- Settles O22: the field's bytes are the value's, and assembling undoes splitting in either order. -/
theorem memReadOfMemWrite : Obligations.MemReadOfMemWrite := by
  intro s i m v
  calc (s.withFb (Memory.memWrite s.cfg.order s.fb i m v)).memRead i m
      = assemble s.cfg.order (splitBytes s.cfg.order m v) :=
        congrArg (assemble s.cfg.order) (s.fbBytes_memWrite i m v)
    _ = v % 256 ^ m := assemble_splitBytes _ m v

/-! ### A CMD write done twice -/

/-- With rising indices no index is listed twice, so its entry is what it reads as. -/
theorem Memory.mem_iff_read {m : Memory} (h : Memory.wf m) (i : Nat) (b : Byte) :
    (i, b) ∈ m ↔ Memory.read m i = some b := by
  induction m with
  | nil => simp [Memory.read]
  | cons c rest ih =>
    obtain ⟨j, d⟩ := c
    obtain ⟨hj, hrest⟩ := List.pairwise_cons.mp h
    by_cases hij : i = j
    · subst hij
      have hnot : (i, b) ∉ rest := fun hin => Nat.lt_irrefl i (hj _ hin)
      simp [Memory.read, hnot, eq_comm]
    · simp [Memory.read, hij, ih hrest]

/-- The one form of the written bytes (log 2): what the indices read as determines the list. -/
theorem Memory.eq_of_read_eq {m m' : Memory} (h : Memory.wf m) (h' : Memory.wf m')
    (hread : ∀ i, Memory.read m i = Memory.read m' i) : m = m' := by
  have hmem (c : Host.Cell) : c ∈ m ↔ c ∈ m' := by
    rw [Memory.mem_iff_read h, Memory.mem_iff_read h', hread]
  exact List.Pairwise.eq_of_mem_iff h h' hmem

/-- R402: BUILD's header written again over itself reads the same at every index. -/
theorem State.read_headerWritten_writeHeader (s : State) (k : Nat) :
    Memory.read s.writeHeader.headerWritten k = Memory.read s.headerWritten k := by
  simp only [State.headerWritten, State.writeHeader, State.withFb_fb, State.withFb_cfg, State.withFb_seq,
    State.withFb_ack, State.withFb_flags, State.withFb_len, Memory.read_memWrite, Memory.read_encodeFlags]
  split_ifs <;> rfl

/-- R402: BUILD's header written again over itself is the same written bytes. -/
theorem State.writeHeader_writeHeader {s : State} (h : Memory.wf s.fb) :
    s.writeHeader.writeHeader = s.writeHeader := by
  have hwf : Memory.wf s.headerWritten := State.headerWritten_wf h
  have hwf' : Memory.wf s.writeHeader.headerWritten := State.headerWritten_wf hwf
  exact congrArg s.withFb (Memory.eq_of_read_eq hwf' hwf s.read_headerWritten_writeHeader)

/-- Run on `s`, it completes, and run again on what it left it leaves that same state (R211). -/
def RunsTwiceAsOnce (run : State → Host.Outcome State Fault Refusal) (s : State) : Prop :=
  ∃ t, run s = .next t ∧ run t = .next t

/-- A run of one check, whose ends keep the check's outcome and change nothing when done again. -/
theorem RunsTwiceAsOnce.of_check {run : State → Host.Outcome State Fault Refusal} {p : State → Prop}
    [DecidablePred p] {f g : State → State} (hrun : ∀ s, run s = .next (if p s then f s else g s)) {s : State}
    (hpf : p (f s) ↔ p s) (hpg : p (g s) ↔ p s) (hf : f (f s) = f s) (hg : g (g s) = g s) :
    RunsTwiceAsOnce run s := by
  by_cases hp : p s
  · exact ⟨f s, by rw [hrun, if_pos hp], by rw [hrun, if_pos (hpf.mpr hp), hf]⟩
  · exact ⟨g s, by rw [hrun, if_neg hp], by rw [hrun, if_neg (mt hpg.mp hp), hg]⟩

/-- A run of two checks in turn, each of whose three ends keeps the outcome of the checks made before it and
changes nothing when done again. -/
theorem RunsTwiceAsOnce.of_two_checks {run : State → Host.Outcome State Fault Refusal} {p q : State → Prop}
    [DecidablePred p] [DecidablePred q] {f g k : State → State}
    (hrun : ∀ s, run s = .next (if p s then f s else if q s then g s else k s)) {s : State}
    (hpf : p (f s) ↔ p s) (hpg : p (g s) ↔ p s) (hpk : p (k s) ↔ p s)
    (hqg : q (g s) ↔ q s) (hqk : q (k s) ↔ q s)
    (hf : f (f s) = f s) (hg : g (g s) = g s) (hk : k (k s) = k s) : RunsTwiceAsOnce run s := by
  by_cases hp : p s
  · exact ⟨f s, by rw [hrun, if_pos hp], by rw [hrun, if_pos (hpf.mpr hp), hf]⟩
  by_cases hq : q s
  · exact ⟨g s, by rw [hrun, if_neg hp, if_pos hq],
      by rw [hrun, if_neg (mt hpg.mp hp), if_pos (hqg.mpr hq), hg]⟩
  · exact ⟨k s, by rw [hrun, if_neg hp, if_neg hq],
      by rw [hrun, if_neg (mt hpk.mp hp), if_neg (mt hqk.mp hq), hk]⟩

/-- R403: what PARSE writes leaves every field of the frame as it reads. -/
theorem State.memRead_loadHeader_withStatus (s : State) (code : StatusCode) (i k : Nat) :
    (s.loadHeader.withStatus code).memRead i k = s.memRead i k :=
  State.memRead_congr rfl fun _ _ _ => rfl

/-- R403: PARSE loads nothing new where the header registers hold what the frame says. -/
theorem State.loadHeader_eq_self {s : State} (hseq : BitVec.ofNat 16 (s.memRead 0 2) = s.seq)
    (hack : BitVec.ofNat 16 (s.memRead 2 2) = s.ack) (hflags : s.decodeFlags = s.flags)
    (hlen : BitVec.ofNat 32 (s.memRead 8 4) = s.len) : s.loadHeader = s := by
  rw [State.loadHeader, hseq, hack, hflags, hlen]
  rfl

/-- R403: PARSE's end, done again, loads the same header. -/
theorem State.loadHeader_withStatus_twice (s : State) (code : StatusCode) :
    (s.loadHeader.withStatus code).loadHeader.withStatus code = s.loadHeader.withStatus code := by
  have hread := s.memRead_loadHeader_withStatus code
  have hself : (s.loadHeader.withStatus code).loadHeader = s.loadHeader.withStatus code :=
    State.loadHeader_eq_self (congrArg (BitVec.ofNat 16) (hread 0 2)) (congrArg (BitVec.ofNat 16) (hread 2 2))
      (State.decodeFlags_congr fun _ _ _ => rfl) (congrArg (BitVec.ofNat 32) (hread 8 4))
  rw [hself]
  rfl

/-- Every command, by the checks it makes: STATUS and RES are in none of them, BUILD's header is made of
registers it leaves alone, and what PARSE loads is made of bytes it leaves alone. -/
theorem runCommand_runsTwiceAsOnce (c : Command) {s : State} (h : Memory.wf s.fb) :
    RunsTwiceAsOnce (runCommand c) s := by
  cases c with
  | build =>
    have hbuilt : s.writeHeader.writeHeader.done = s.writeHeader.done :=
      congrArg State.done (State.writeHeader_writeHeader h)
    exact .of_two_checks (fun _ => rfl) .rfl .rfl .rfl .rfl .rfl rfl rfl hbuilt
  | parse =>
    exact .of_two_checks (fun _ => rfl) .rfl .rfl .rfl .rfl .rfl (s.loadHeader_withStatus_twice _)
      (s.loadHeader_withStatus_twice _) (s.loadHeader_withStatus_twice _)
  | seqAdd | seqSub | seqCmp | seqInwin => exact .of_check (fun _ => rfl) .rfl .rfl rfl rfl
  | endSeq => exact .of_two_checks (fun _ => rfl) .rfl .rfl .rfl .rfl .rfl rfl rfl rfl

/-- R211, R311: a CMD write runs a command, or, for an illegal word, sets STATUS and nothing else. -/
theorem writeCmd_runsTwiceAsOnce (w : Word) {s : State} (h : Memory.wf s.fb) :
    RunsTwiceAsOnce (writeCmd w) s := by
  unfold writeCmd
  cases decodeCommand w with
  | ok c => exact runCommand_runsTwiceAsOnce c h
  | error e => exact ⟨s.fail .eop, rfl, rfl⟩

/-- Settles O45. -/
theorem cmdWriteTwiceIsCmdWriteOnce : Obligations.CmdWriteTwiceIsCmdWriteOnce := by
  intro s w h
  obtain ⟨t, honce, htwice⟩ := writeCmd_runsTwiceAsOnce w h
  exact ⟨t, (exec_regWrite_zero w s).trans honce, (exec_regWrite_zero w t).trans htwice⟩

end Sys2Proof.Machine

/-! The statements of 30_encoding.md: the two encodings read and written (R309 to R313), the command map of a CMD
write (R310, R311, R605), and the frame BUILD leaves in FB (R302, R303, R305, R308). -/

/-! ### The command words -/

namespace Sys2Proof.Machine

open Sys2Proof.Safety

theorem decodeCommand_word (c : Command) : decodeCommand c.word = .ok c := by cases c <;> rfl

theorem encode_toInstr (c : Command) : encode c.toInstr = .command c.word := by cases c <;> rfl

/-- R307: a command carries no operand. -/
theorem wellFormed_toInstr (c : Command) : c.toInstr.wellFormed = true := by cases c <;> rfl

theorem decode_command_word (c : Command) : decode (.command c.word) = .ok c.toInstr :=
  decode_command_eq_ok_iff.mpr ⟨c, decodeCommand_word c, rfl⟩

/-- R309, R310: a command word that decodes is the encoding of what it decodes to. -/
theorem encode_of_decode_command {w : Word} {i : Instr} (h : decode (.command w) = .ok i) :
    encode i = .command w ∧ i.wellFormed = true := by
  obtain ⟨c, hc, rfl⟩ := decode_command_eq_ok_iff.mp h
  rw [decodeCommand_eq_ok hc]
  exact ⟨encode_toInstr c, wellFormed_toInstr c⟩

/-! ### The transaction records -/

/-- R313: DATA of an FB_WRITE is one byte. -/
theorem wellFormed_fbWrite_iff (off : BitVec 30) (data : Word) :
    (Instr.fbWrite off data).wellFormed = true ↔ data.extractLsb' 8 24 = 0#24 :=
  beq_iff_eq

/-- A record of KIND 1 with DATA 0 is a REG_READ (R313). -/
theorem decodeRecord_mkRecord_one (off : BitVec 30) :
    decodeRecord (mkRecord 1#2 off 0#32) = .ok (.regRead off) := by
  simp [decodeRecord]

/-- A record of KIND 2 whose DATA is one byte is an FB_WRITE (R313). -/
theorem decodeRecord_mkRecord_two (off : BitVec 30) {data : Word} (hdata : data.extractLsb' 8 24 = 0#24) :
    decodeRecord (mkRecord 2#2 off data) = .ok (.fbWrite off data) := by
  simp [decodeRecord, hdata]

/-- A record of KIND 3 with DATA 0 is an FB_READ (R313). -/
theorem decodeRecord_mkRecord_three (off : BitVec 30) :
    decodeRecord (mkRecord 3#2 off 0#32) = .ok (.fbRead off) := by
  simp [decodeRecord]

/-- R313: a record of known KIND is made of that KIND and its two other fields. -/
theorem mkRecord_of_recKind {r : Record} {kind : BitVec 2} (hkind : (recKind r).toNat = kind.toNat) :
    mkRecord kind (recOff r) (recData r) = r := by
  rw [← BitVec.eq_of_toNat_eq hkind, mkRecord_fields]

/-- KIND has two bits. -/
theorem recKind_toNat_eq_three {r : Record} (h0 : (recKind r).toNat ≠ 0) (h1 : (recKind r).toNat ≠ 1)
    (h2 : (recKind r).toNat ≠ 2) : (recKind r).toNat = 3 := by
  have hlt : (recKind r).toNat < 4 := (recKind r).isLt
  omega

/-- R313: a record that decodes is the encoding of what it decodes to, by its KIND; a read's DATA and an
FB_WRITE's DATA[31:8] are 0, or the decoder rejects it (log 7). -/
theorem encode_of_decodeRecord {r : Record} {i : Instr} (h : decodeRecord r = .ok i) :
    encode i = .record r ∧ i.wellFormed = true := by
  unfold decodeRecord at h
  split at h
  case h_1 hkind =>
    cases h
    exact ⟨congrArg Encoded.record (mkRecord_of_recKind hkind), rfl⟩
  case h_2 hkind =>
    split at h <;> cases h
    rename_i hdata
    exact ⟨congrArg Encoded.record (hdata ▸ mkRecord_of_recKind hkind), rfl⟩
  case h_3 hkind =>
    split at h <;> cases h
    rename_i hdata
    exact ⟨congrArg Encoded.record (mkRecord_of_recKind hkind), (wellFormed_fbWrite_iff _ _).mpr hdata⟩
  case h_4 h0 h1 h2 =>
    split at h <;> cases h
    rename_i hdata
    have hkind := recKind_toNat_eq_three h0 h1 h2
    exact ⟨congrArg Encoded.record (hdata ▸ mkRecord_of_recKind hkind), rfl⟩

/-! ### The two round trips -/

/-- Settles O1, by the instruction: a command through the command map, a transaction by its KIND. -/
theorem decodeEncodeRoundTrip : Obligations.DecodeEncodeRoundTrip := by
  intro i hwf
  cases i with
  | build => exact decode_command_word .build
  | parse => exact decode_command_word .parse
  | seqAdd => exact decode_command_word .seqAdd
  | seqSub => exact decode_command_word .seqSub
  | seqCmp => exact decode_command_word .seqCmp
  | seqInwin => exact decode_command_word .seqInwin
  | endSeq => exact decode_command_word .endSeq
  | regWrite off data => exact decodeRecord_mkRecord_zero off data
  | regRead off => exact decodeRecord_mkRecord_one off
  | fbWrite off data => exact decodeRecord_mkRecord_two off ((wellFormed_fbWrite_iff off data).mp hwf)
  | fbRead off => exact decodeRecord_mkRecord_three off

/-- Settles O2. -/
theorem encodeDecodeRoundTrip : Obligations.EncodeDecodeRoundTrip := by
  intro e i h
  cases e with
  | command w => exact encode_of_decode_command h
  | record r => exact encode_of_decodeRecord h

/-- A 32-bit row that is the encoding of a well-formed instruction is that instruction's (R309). -/
theorem decodeTableWord_32_of_encode {w : Nat} {i : Instr} (hwf : i.wellFormed = true)
    (hw : encode i = .command (BitVec.ofNat 32 w)) : decodeTableWord 32 w = some i := by
  rw [decodeTableWord, ← hw, decodeEncodeRoundTrip i hwf]
  rfl

/-- A 64-bit row that is the encoding of a well-formed instruction is that instruction's (R313). -/
theorem decodeTableWord_64_of_encode {w : Nat} {i : Instr} (hwf : i.wellFormed = true)
    (hw : encode i = .record (BitVec.ofNat 64 w)) : decodeTableWord 64 w = some i := by
  rw [decodeTableWord, ← hw, decodeEncodeRoundTrip i hwf]
  rfl

/-- Settles O3: each legal word is its instruction's encoding, and 0x11 has a bit of RSV set. -/
theorem tableWordsDecode : Obligations.TableWordsDecode :=
  ⟨decodeTableWord_32_of_encode rfl rfl, decodeTableWord_32_of_encode rfl rfl,
    decodeTableWord_32_of_encode rfl rfl, rfl,
    decodeTableWord_64_of_encode rfl rfl, decodeTableWord_64_of_encode rfl rfl,
    decodeTableWord_64_of_encode rfl rfl, decodeTableWord_64_of_encode rfl rfl⟩

/-! ### The command map of a CMD write -/

/-- R106, R310: a REG_WRITE of a command's word to CMD runs the command. -/
theorem exec_regWrite_zero_word (c : Command) (s : State) :
    exec (.regWrite 0#30 c.word) s = exec c.toInstr s :=
  (exec_regWrite_zero c.word s).trans (writeCmd_of_decodeCommand (decodeCommand_word c) s)

/-- R310, R311: a command's word has RSV 0 and an OP from 1 to 7. -/
theorem word_fields (c : Command) :
    cmdRsv c.word = 0#28 ∧ cmdOp c.word ≠ 0#4 ∧ (cmdOp c.word).toNat < 8 := by
  cases c <;> decide

/-- R311, R605: a word that is no command's writes STATUS.CODE = EOP and nothing else. -/
theorem writeCmd_of_ne_word {w : Word} (hw : ∀ c : Command, w ≠ c.word) (s : State) :
    writeCmd w s = .next (s.fail .eop) := by
  unfold writeCmd
  split
  · rename_i c hc
    exact absurd (decodeCommand_eq_ok hc) (hw c)
  · rfl

/-- Settles O4. -/
theorem cmdWriteRunsTheCommandMap : Obligations.CmdWriteRunsTheCommandMap := by
  intro s w
  refine ⟨exec_regWrite_zero_word .build s, exec_regWrite_zero_word .parse s,
    exec_regWrite_zero_word .seqAdd s, exec_regWrite_zero_word .seqSub s,
    exec_regWrite_zero_word .seqCmp s, exec_regWrite_zero_word .seqInwin s,
    exec_regWrite_zero_word .endSeq s, fun hillegal => ?_⟩
  refine (exec_regWrite_zero w s).trans (writeCmd_of_ne_word ?_ s)
  rintro c rfl
  obtain ⟨hrsv, hop, hlt⟩ := word_fields c
  rcases hillegal with hzero | hge | hbits
  · exact hop hzero
  · exact absurd hlt (Nat.not_lt.mpr hge)
  · exact hbits hrsv

/-! ### The frame BUILD leaves in FB -/

/-- R205: a field whose bytes are those of a value reads as that value, taken to the field's width. -/
theorem State.memRead_of_splitBytes {s : State} {i k v : Nat}
    (h : ∀ d, d < k → s.fbByte (i + d) = (splitBytes s.cfg.order k v).getD d 0#8) :
    s.memRead i k = v % 256 ^ k := by
  have hbytes : s.fbBytes i k = splitBytes s.cfg.order k v := by
    refine State.fbBytes_eq_of (splitBytes_length _ _ _) fun d hd => ?_
    have hl : d < (splitBytes s.cfg.order k v).length := by rwa [splitBytes_length]
    rw [h d hd, List.getD_eq_getElem _ _ hl, List.getElem?_eq_getElem hl]
  rw [State.memRead, hbytes, assemble_splitBytes]

/-- R301, R402: the seqnum field of BUILD's header is SEQ. -/
theorem State.memRead_writeHeader_seq (s : State) : s.writeHeader.memRead 0 2 = s.seq.toNat := by
  have hread : s.writeHeader.memRead 0 2 = s.seq.toNat % 256 ^ 2 :=
    State.memRead_of_splitBytes fun d hd => by
      rw [State.fbByte_writeHeader, Nat.zero_add, if_pos hd, State.writeHeader_cfg]
  exact hread.trans (Nat.mod_eq_of_lt s.seq.isLt)

/-- R301, R402: the acknum field of BUILD's header is ACK. -/
theorem State.memRead_writeHeader_ack (s : State) : s.writeHeader.memRead 2 2 = s.ack.toNat := by
  have hread : s.writeHeader.memRead 2 2 = s.ack.toNat % 256 ^ 2 :=
    State.memRead_of_splitBytes fun d hd => by
      rw [State.fbByte_writeHeader, if_neg (by omega), if_pos (by omega), Nat.add_sub_cancel_left,
        State.writeHeader_cfg]
  exact hread.trans (Nat.mod_eq_of_lt s.ack.isLt)

/-- R301, R402: the length field of BUILD's header is LEN. -/
theorem State.memRead_writeHeader_len (s : State) : s.writeHeader.memRead 8 4 = s.len.toNat := by
  have hread : s.writeHeader.memRead 8 4 = s.len.toNat % 256 ^ 4 :=
    State.memRead_of_splitBytes fun d hd => by
      rw [State.fbByte_writeHeader, if_neg (by omega), if_neg (by omega), if_neg (by omega),
        if_pos (by omega), Nat.add_sub_cancel_left, State.writeHeader_cfg]
  exact hread.trans (Nat.mod_eq_of_lt s.len.isLt)

/-- R402: a BUILD that reports OK has passed its checks and laid out the header. -/
theorem execBuild_of_status_ok {s t : State} (h : execBuild s = .next t) (hok : t.status = .ok) :
    (s.fits s.len.toNat ∧ s.inRange s.seq.toNat ∧ s.inRange s.ack.toNat) ∧ t = s.writeHeader.done := by
  unfold execBuild at h
  split at h
  · cases h
    cases hok
  split at h
  · cases h
    cases hok
  · rename_i hlen hrange
    obtain ⟨hseq, hack⟩ := not_or.mp hrange
    cases h
    exact ⟨⟨not_not.mp hlen, not_not.mp hseq, not_not.mp hack⟩, rfl⟩

/-- R308: the frame BUILD lays out is valid exactly when the header registers pass BUILD's checks. -/
theorem validFrame_writeHeader_done_iff (s : State) :
    ValidFrame s.writeHeader.done ↔
      s.fits s.len.toNat ∧ s.inRange s.seq.toNat ∧ s.inRange s.ack.toNat := by
  simp only [ValidFrame, State.memRead_done, State.memRead_writeHeader_len, State.memRead_writeHeader_seq,
    State.memRead_writeHeader_ack, State.done_cfg, State.writeHeader_cfg]

/-- Settles O26: what BUILD checks of the registers is what R308 asks of the frame it makes of them. -/
theorem buildEmitsOnlyValidFrames : Obligations.BuildEmitsOnlyValidFrames := by
  intro s t h hok
  obtain ⟨hchecks, rfl⟩ := execBuild_of_status_ok h hok
  exact (validFrame_writeHeader_done_iff s).mpr hchecks

end Sys2Proof.Machine

/-! The statements of 40_framer.md: BUILD (R402), PARSE (R403), and the two laws of section 4 that the spec
derives from them (R404, R405). -/

/-! ### The header BUILD lays out, field by field -/

namespace Sys2Proof.Machine

open Sys2Proof.Safety

theorem ofNat_toNat_div_eq_extractLsb' {n : Nat} (v : BitVec n) (k : Nat) :
    BitVec.ofNat 8 (v.toNat / 2 ^ k) = v.extractLsb' k 8 := by
  apply BitVec.eq_of_toNat_eq
  rw [BitVec.toNat_ofNat, BitVec.extractLsb'_toNat, Nat.shiftRight_eq_div_pow]

theorem splitLE_two (v : Half) : splitLE 2 v.toNat = [v.extractLsb' 0 8, v.extractLsb' 8 8] := by
  simp only [splitLE, ← ofNat_toNat_div_eq_extractLsb', Nat.pow_zero, Nat.div_one, Nat.reducePow]

theorem splitLE_four (v : Word) :
    splitLE 4 v.toNat = [v.extractLsb' 0 8, v.extractLsb' 8 8, v.extractLsb' 16 8, v.extractLsb' 24 8] := by
  simp only [splitLE, ← ofNat_toNat_div_eq_extractLsb', Nat.div_div_eq_div_mul, Nat.pow_zero, Nat.div_one,
    Nat.reducePow, Nat.reduceMul]

/-- R205: a 16-bit field is laid out as the two bytes of its value. -/
theorem splitBytes_two (o : ByteOrder) (v : Half) : splitBytes o 2 v.toNat = halfBytes o v := by
  cases o with
  | le => exact splitLE_two v
  | be => exact congrArg List.reverse (splitLE_two v)

/-- R205: a 32-bit field is laid out as the four bytes of its value. -/
theorem splitBytes_four (o : ByteOrder) (v : Word) : splitBytes o 4 v.toNat = wordBytes o v := by
  cases o with
  | le => exact splitLE_four v
  | be => exact congrArg List.reverse (splitLE_four v)

/-- R205: a field's value, split again, is the field's bytes. -/
theorem State.splitBytes_memRead (s : State) (i k : Nat) :
    splitBytes s.cfg.order k (s.memRead i k) = s.fbBytes i k := by
  simpa only [State.memRead, State.fbBytes_length] using splitBytes_assemble s.cfg.order (s.fbBytes i k)

theorem State.fbBytes_add (s : State) (i m n : Nat) :
    s.fbBytes i (m + n) = s.fbBytes i m ++ s.fbBytes (i + m) n := by
  induction m generalizing i with
  | zero => simp [State.fbBytes]
  | succ m ih =>
    rw [Nat.succ_add, State.fbBytes, ih, State.fbBytes, List.cons_append, Nat.succ_add_eq_add_succ]

/-- R301: a frame header's bytes are those of its fields, one after the other. -/
theorem State.fbBytes_header (s : State) :
    s.fbBytes 0 12 = s.fbBytes 0 2 ++ s.fbBytes 2 2 ++ s.fbBytes 4 4 ++ s.fbBytes 8 4 := by
  rw [← State.fbBytes_add s 0 2 2, ← State.fbBytes_add s 0 4 4, ← State.fbBytes_add s 0 8 4]

/-- R402, R301: the twelve bytes of BUILD's header. -/
theorem State.fbBytes_writeHeader (s : State) :
    s.writeHeader.fbBytes 0 12 =
      splitBytes s.cfg.order 2 s.seq.toNat ++ splitBytes s.cfg.order 2 s.ack.toNat ++ flagBytes s.flags ++
        splitBytes s.cfg.order 4 s.len.toNat := by
  have hfield (i k : Nat) : s.writeHeader.fbBytes i k = splitBytes s.cfg.order k (s.writeHeader.memRead i k) :=
    (s.writeHeader.splitBytes_memRead i k).symm
  have hflags : s.writeHeader.fbBytes 4 4 = flagBytes s.flags := by
    simp [State.fbBytes, State.fbByte_writeHeader, flagBytes]
  rw [State.fbBytes_header, hflags, hfield 0 2, hfield 2 2, hfield 8 4, State.memRead_writeHeader_seq,
    State.memRead_writeHeader_ack, State.memRead_writeHeader_len]

/-- R402: BUILD leaves the payload as it is. -/
theorem State.fbByte_writeHeader_payload (s : State) {i : Nat} (hi : 12 ≤ i) :
    s.writeHeader.fbByte i = s.fbByte i :=
  CommandEffect.built.fbByte_payload hi

/-- R402, R304: flags laid out by BUILD read back as themselves. -/
theorem State.decodeFlags_writeHeader (s : State) : s.writeHeader.decodeFlags = s.flags := by
  refine BitVec.eq_of_getLsbD_eq fun k hk => ?_
  rw [State.decodeFlags_getLsbD _ _ hk, State.fbByte_writeHeader, if_neg (by omega), if_neg (by omega),
    if_pos (by omega), decflag_encflag, Nat.add_sub_cancel_left]

/-! ### BUILD -/

/-- R402, R606: a length above CAP fails BUILD. -/
theorem execBuild_of_not_fits {s : State} (hlen : ¬ s.fits s.len.toNat) :
    execBuild s = .next (s.fail .elen) := by
  rw [execBuild, if_pos hlen]

/-- R402: a sequence value of N or more fails BUILD. -/
theorem execBuild_of_not_inRange {s : State} (hlen : s.fits s.len.toNat)
    (hrange : ¬ s.inRange s.seq.toNat ∨ ¬ s.inRange s.ack.toNat) : execBuild s = .next (s.fail .erange) := by
  rw [execBuild, if_neg (not_not.mpr hlen), if_pos hrange]

/-- R402: with every check passed BUILD lays out the header. -/
theorem execBuild_of_checks {s : State} (hlen : s.fits s.len.toNat) (hseq : s.inRange s.seq.toNat)
    (hack : s.inRange s.ack.toNat) : execBuild s = .next s.writeHeader.done := by
  rw [execBuild, if_neg (not_not.mpr hlen), if_neg (not_or.mpr ⟨not_not.mpr hseq, not_not.mpr hack⟩)]

/-- Settles O23: one clause per way BUILD's checks can come out. -/
theorem buildRule : Obligations.BuildRule := by
  refine ⟨decodeCommand_word .build, fun s => ⟨fun hlen => ?elen, fun hlen hrange => ?erange,
    fun hlen hseq hack => ?ok⟩⟩
  case elen => exact execBuild_of_not_fits (Nat.not_le.mpr hlen)
  case erange => exact execBuild_of_not_inRange hlen (hrange.imp Nat.not_lt.mpr Nat.not_lt.mpr)
  case ok =>
    refine ⟨_, execBuild_of_checks hlen hseq hack, rfl, ?_, fun i hi => s.fbByte_writeHeader_payload hi⟩
    calc s.writeHeader.done.fbBytes 0 12 = s.writeHeader.fbBytes 0 12 :=
          State.fbBytes_congr fun d _ _ => State.fbByte_done _ d
      _ = _ := by rw [State.fbBytes_writeHeader, splitBytes_two, splitBytes_two, splitBytes_four]; rfl

/-! ### PARSE -/

/-- The status PARSE reports of the frame in FB (R403). -/
def State.frameStatus (s : State) : StatusCode :=
  if s.memRead 8 4 > s.cfg.cap then .elen
  else if s.memRead 0 2 ≥ s.cfg.n ∨ s.memRead 2 2 ≥ s.cfg.n then .erange else .ok

/-- R403: PARSE loads the header whatever the checks say, and reports what they say. -/
theorem execParse_eq (s : State) : execParse s = .next (s.loadHeader.withStatus s.frameStatus) := by
  simp only [execParse, State.frameStatus, State.fits, State.inRange, Nat.not_le, Nat.not_lt, gt_iff_lt,
    ge_iff_le]
  split
  · rfl
  split <;> rfl

/-- R403, R308: PARSE's checks are those of a valid frame. -/
theorem State.frameStatus_eq_ok_iff (s : State) : s.frameStatus = .ok ↔ ValidFrame s := by
  unfold State.frameStatus
  split
  · simp only [reduceCtorEq, false_iff]; omega
  split
  · simp only [reduceCtorEq, false_iff]; omega
  · simp only [true_iff]; omega

/-- R403: PARSE of a valid frame loads its header and reports OK. -/
theorem execParse_of_validFrame {s : State} (hvalid : ValidFrame s) :
    execParse s = .next s.loadHeader.done := by
  rw [execParse_eq, s.frameStatus_eq_ok_iff.mpr hvalid]; rfl

/-- R403: a PARSE that reports OK has found a valid frame and loaded its header. -/
theorem execParse_of_status_ok {s t : State} (h : execParse s = .next t) (hok : t.status = .ok) :
    ValidFrame s ∧ t = s.loadHeader.done := by
  have heq : s.loadHeader.withStatus s.frameStatus = t := Host.Outcome.next.inj ((execParse_eq s).symm.trans h)
  subst heq
  have hvalid : ValidFrame s := s.frameStatus_eq_ok_iff.mp hok
  exact ⟨hvalid, Host.Outcome.next.inj (h.symm.trans (execParse_of_validFrame hvalid))⟩

/-- R403: SEQ holds what PARSE loads into it. -/
theorem State.loadHeader_seq_toNat (s : State) : s.loadHeader.seq.toNat = s.memRead 0 2 :=
  (BitVec.toNat_ofNat _ _).trans (Nat.mod_eq_of_lt (s.memRead_lt 0 2))

/-- R403: ACK holds what PARSE loads into it. -/
theorem State.loadHeader_ack_toNat (s : State) : s.loadHeader.ack.toNat = s.memRead 2 2 :=
  (BitVec.toNat_ofNat _ _).trans (Nat.mod_eq_of_lt (s.memRead_lt 2 2))

/-- R403: LEN holds what PARSE loads into it. -/
theorem State.loadHeader_len_toNat (s : State) : s.loadHeader.len.toNat = s.memRead 8 4 :=
  (BitVec.toNat_ofNat _ _).trans (Nat.mod_eq_of_lt (s.memRead_lt 8 4))

/-- R304: any flag byte but 0 is set. -/
theorem decflag_eq_decide (b : Byte) : decflag b = decide (b ≠ 0#8) := by
  by_cases hb : b = 0#8 <;> simp [decflag, hb]

/-- Settles O24. -/
theorem parseRule : Obligations.ParseRule := by
  refine ⟨decodeCommand_word .parse, fun s => ⟨_, execParse_eq s, rfl, s.loadHeader_seq_toNat,
    s.loadHeader_ack_toNat, s.loadHeader_len_toNat, fun k hk => ?_, rfl⟩⟩
  exact (s.decodeFlags_getLsbD k hk).trans (decflag_eq_decide _)

/-- Settles O25. -/
theorem parseReportsOkExactlyForValidFrames : Obligations.ParseReportsOkExactlyForValidFrames :=
  fun s => ⟨_, execParse_eq s, s.frameStatus_eq_ok_iff⟩

/-! ### PARSE after BUILD (R404) -/

/-- R404: a frame buffer that reads as the header BUILD laid out of `s` loads `s`'s header registers. -/
theorem State.loadHeader_of_writeHeader {s u : State} (hcfg : u.cfg = s.cfg)
    (hfb : ∀ i, u.fbByte i = s.writeHeader.fbByte i) :
    u.loadHeader.seq = s.seq ∧ u.loadHeader.ack = s.ack ∧ u.loadHeader.flags = s.flags ∧
      u.loadHeader.len = s.len := by
  have hread (i k : Nat) : u.memRead i k = s.writeHeader.memRead i k :=
    State.memRead_congr hcfg fun d _ _ => hfb d
  refine ⟨BitVec.eq_of_toNat_eq ?_, BitVec.eq_of_toNat_eq ?_, ?_, BitVec.eq_of_toNat_eq ?_⟩
  · rw [State.loadHeader_seq_toNat, hread, State.memRead_writeHeader_seq]
  · rw [State.loadHeader_ack_toNat, hread, State.memRead_writeHeader_ack]
  · exact (State.decodeFlags_congr fun i _ _ => hfb i).trans s.decodeFlags_writeHeader
  · rw [State.loadHeader_len_toNat, hread, State.memRead_writeHeader_len]

/-- R308 reads the parameters and FB only. -/
theorem validFrame_congr {s t : State} (hcfg : s.cfg = t.cfg) (hfb : ∀ i, s.fbByte i = t.fbByte i) :
    ValidFrame s ↔ ValidFrame t := by
  have hread (i k : Nat) : s.memRead i k = t.memRead i k := State.memRead_congr hcfg fun d _ _ => hfb d
  simp only [ValidFrame, hread, hcfg]

/-- Settles O27: what BUILD left is a valid frame, and its fields read as the registers it was made of. -/
theorem buildThenParse : Obligations.BuildThenParse := by
  intro s t u h hok hcfg hfb hpow
  have hvalid : ValidFrame t := buildEmitsOnlyValidFrames s t h hok
  obtain ⟨-, rfl⟩ := execBuild_of_status_ok h hok
  have hbyte (i : Nat) : u.fbByte i = s.writeHeader.done.fbByte i := State.fbByte_congr hfb hpow i
  obtain ⟨hseq, hack, hflags, hlen⟩ := State.loadHeader_of_writeHeader (s := s) hcfg hbyte
  exact ⟨_, execParse_of_validFrame ((validFrame_congr hcfg hbyte).mpr hvalid), hseq, hack, hflags, hlen, rfl,
    hbyte, fun i hi => (hbyte i).trans (s.fbByte_writeHeader_payload hi)⟩

/-! ### BUILD after PARSE (R405) -/

/-- R205: byte `d` of a field's value, split again, is the field's byte `d`. -/
theorem State.splitBytes_memRead_getD (s : State) {i k d : Nat} (hd : d < k) :
    (splitBytes s.cfg.order k (s.memRead i k)).getD d 0#8 = s.fbByte (i + d) := by
  rw [State.splitBytes_memRead, List.getD_eq_getElem?_getD, State.fbBytes_getElem?, if_pos hd, Option.getD_some]

/-- R405: the header laid out again from what PARSE loaded of it is the same, with its flag bytes made 0
or 1. -/
theorem State.fbByte_writeHeader_loadHeader (s : State) (i : Nat) :
    s.loadHeader.writeHeader.fbByte i =
      if 4 ≤ i ∧ i < 8 then (if s.fbByte i = 0#8 then 0#8 else 1#8) else s.fbByte i := by
  rw [State.fbByte_writeHeader, State.loadHeader_seq_toNat, State.loadHeader_ack_toNat,
    State.loadHeader_len_toNat, State.loadHeader_cfg, State.loadHeader_flags, State.fbByte_loadHeader]
  by_cases h2 : i < 2
  · rw [if_pos h2, if_neg (by omega), State.splitBytes_memRead_getD s h2, Nat.zero_add]
  by_cases h4 : i < 4
  · rw [if_neg h2, if_pos h4, if_neg (by omega), State.splitBytes_memRead_getD s (by omega),
      Nat.add_sub_cancel' (by omega)]
  by_cases h8 : i < 8
  · rw [if_neg h2, if_neg h4, if_pos h8, if_pos (by omega), State.decodeFlags_getLsbD _ _ (by omega),
      Nat.add_sub_cancel' (by omega), encflag_decflag]
  rw [if_neg h2, if_neg h4, if_neg h8, if_neg (by omega : ¬ (4 ≤ i ∧ i < 8))]
  by_cases h12 : i < 12
  · rw [if_pos h12, State.splitBytes_memRead_getD s (by omega), Nat.add_sub_cancel' (by omega)]
  · rw [if_neg h12]

/-- R405: made 0 or 1, a flag byte is what it was exactly when it was 0 or 1. -/
theorem normalisedFlagByte_eq_self_iff (b : Byte) :
    (if b = 0#8 then 0#8 else 1#8) = b ↔ b = 0#8 ∨ b = 1#8 := by
  by_cases hb : b = 0#8
  · simp [hb]
  · simp [hb, eq_comm]

/-- Settles O28: BUILD checks what PARSE loaded, which is what PARSE checked. -/
theorem parseThenBuild : Obligations.ParseThenBuild := by
  intro s t h hok
  obtain ⟨⟨hlen, hseq, hack⟩, rfl⟩ := execParse_of_status_ok h hok
  have hbuild : execBuild s.loadHeader.done = .next s.loadHeader.done.writeHeader.done :=
    execBuild_of_checks (s.loadHeader_len_toNat.trans_le hlen) (s.loadHeader_seq_toNat.trans_lt hseq)
      (s.loadHeader_ack_toNat.trans_lt hack)
  have hbyte := s.fbByte_writeHeader_loadHeader
  refine ⟨_, hbuild, rfl, hbyte, fun hsame i h4 h8 => ?_, fun hflags i _ => ?_⟩
  · have hi := (hbyte i).symm.trans (hsame i (by omega))
    rw [if_pos ⟨h4, h8⟩] at hi
    exact (normalisedFlagByte_eq_self_iff _).mp hi
  · refine (hbyte i).trans ?_
    by_cases hin : 4 ≤ i ∧ i < 8
    · obtain ⟨h4, h8⟩ := hin
      rw [if_pos ⟨h4, h8⟩, (normalisedFlagByte_eq_self_iff _).mpr (hflags i h4 h8)]
    · rw [if_neg hin]

end Sys2Proof.Machine

/-! The statements of 41_seqspace.md: the five sequence-space commands (R452 to R456), SEQ_CMP as a circular order
(R454, C4), and the laws of section 3 that the spec derives from them (R457). -/

/-! ### Forward distances (R9, R451, R453) -/

namespace Sys2Proof.Machine

theorem distance_eq_zero_iff {n a b : Nat} (ha : a < n) (hb : b < n) : distance n a b = 0 ↔ a = b := by
  rw [distance_eq ha hb]
  split <;> omega

/-- The two distances between different values make one whole turn. -/
theorem distance_add_distance {n a b : Nat} (ha : a < n) (hb : b < n) (hne : a ≠ b) :
    distance n a b + distance n b a = n := by
  rw [distance_eq ha hb, distance_eq hb ha]
  split <;> split <;> omega

/-- Between equal values both distances are 0; between different ones they make one whole turn, so that one is below
half a turn exactly when the other is above it. -/
theorem distance_swap_gt_iff {n a b : Nat} (ha : a < n) (hb : b < n) :
    (distance n b a ≠ 0 ∧ 2 * distance n b a > n) ↔ (distance n a b ≠ 0 ∧ 2 * distance n a b < n) := by
  have hzero := distance_eq_zero_iff ha hb
  have hzero' := distance_eq_zero_iff hb ha
  by_cases hab : a = b
  · simp [hzero.mpr hab, hzero'.mpr hab.symm]
  · have hturn := distance_add_distance ha hb hab
    omega

/-- Two values are half a turn apart when they differ by half the space, in either direction. -/
theorem two_mul_distance_eq_iff {n a b : Nat} (ha : a < n) (hb : b < n) :
    2 * distance n a b = n ↔ 2 * b + n = 2 * a ∨ 2 * a + n = 2 * b := by
  rw [distance_eq ha hb]
  split <;> omega

/-- R453: going the distance forward from `b` reaches `a`. -/
theorem add_distance_mod {n a b : Nat} (ha : a < n) (hb : b < n) : (b + distance n a b) % n = a := by
  rw [distance_eq ha hb]
  split
  · rw [Nat.add_sub_cancel' ‹b ≤ a›, Nat.mod_eq_of_lt ha]
  · rw [Nat.add_sub_cancel' (by omega), Nat.add_mod_right, Nat.mod_eq_of_lt ha]

/-- R457: `k` steps forward from `b` are a distance of `k` less its whole turns. -/
theorem distance_add_mod {n b : Nat} (k : Nat) (hb : b < n) : distance n ((b + k) % n) b = k % n := by
  have hcast : (distance n ((b + k) % n) b : Int) = ((k % n : Nat) : Int) := by
    rw [distance_cast _ _ (Nat.zero_lt_of_lt hb), Int.natCast_emod, Int.emod_sub_emod, Nat.cast_add,
      add_sub_cancel_left, Int.natCast_emod]
  exact Int.ofNat_inj.mp hcast

/-- R455: a distance below `span` and membership of the `span` values from `b` on say the same. -/
theorem distance_lt_iff_exists {n a b : Nat} (span : Nat) (ha : a < n) (hb : b < n) :
    distance n a b < span ↔ ∃ k, k < span ∧ a = (b + k) % n := by
  constructor
  · exact fun h => ⟨_, h, (add_distance_mod ha hb).symm⟩
  · rintro ⟨k, hk, rfl⟩
    rw [distance_add_mod k hb]
    exact Nat.lt_of_le_of_lt (Nat.mod_le k n) hk

/-! ### The bits of SEQ_CMP (R454) -/

/-- RES of SEQ_CMP: the order bits, with zeros above. -/
def orderWord (n d : Nat) : Word := BitVec.ofNat 32 (orderBits n d).toNat

theorem orderWord_getLsbD (n d : Nat) {k : Nat} (hk : k < 32) :
    (orderWord n d).getLsbD k = (orderBits n d).getLsbD k := by
  simp [orderWord, hk]

theorem orderWord_getLsbD_zero (n d : Nat) : (orderWord n d).getLsbD 0 = decide (d = 0) := by
  rw [orderWord_getLsbD _ _ (by decide), orderBits, BitVec.getLsbD_append, BitVec.getLsbD_append]
  simp

theorem orderWord_getLsbD_one (n d : Nat) :
    (orderWord n d).getLsbD 1 = decide (d ≠ 0 ∧ 2 * d < n) := by
  rw [orderWord_getLsbD _ _ (by decide), orderBits, BitVec.getLsbD_append, BitVec.getLsbD_append]
  simp

theorem orderWord_getLsbD_two (n d : Nat) :
    (orderWord n d).getLsbD 2 = decide (d ≠ 0 ∧ 2 * d > n) := by
  rw [orderWord_getLsbD _ _ (by decide), orderBits, BitVec.getLsbD_append, BitVec.getLsbD_append]
  simp

theorem orderWord_getLsbD_of_ge (n d : Nat) {k : Nat} (hk : 3 ≤ k) : (orderWord n d).getLsbD k = false := by
  simp [orderWord, BitVec.getLsbD_of_ge _ k hk]

/-- EQ, LT, GT or, half a turn apart, none. -/
theorem orderWord_eq_ite (n d : Nat) :
    orderWord n d = if d = 0 then 1#32 else if 2 * d < n then 2#32 else if n < 2 * d then 4#32 else 0#32 := by
  unfold orderWord orderBits
  by_cases hzero : d = 0
  · simp [hzero]
  by_cases hlt : 2 * d < n
  · simp [hzero, hlt, Nat.not_lt.mpr hlt.le]
  by_cases hgt : n < 2 * d <;> simp [hzero, hlt, hgt]

theorem orderWord_cases (n d : Nat) :
    orderWord n d = 0#32 ∨ orderWord n d = 1#32 ∨ orderWord n d = 2#32 ∨ orderWord n d = 4#32 := by
  rw [orderWord_eq_ite]
  split_ifs <;> simp

theorem orderWord_eq_zero_iff {n : Nat} (d : Nat) (hn : 0 < n) : orderWord n d = 0#32 ↔ 2 * d = n := by
  rw [orderWord_eq_ite]
  split_ifs <;> simp <;> omega

/-! ### The commands by their checks -/

/-- RES holds a value of the sequence space without truncation (R6, R111). -/
theorem State.finish_res_toNat {s : State} (hwf : s.cfg.wf) {v : Nat} (hv : v < s.cfg.n) :
    (s.finish v).res.toNat = v := by
  obtain ⟨⟨-, hn⟩, -⟩ := hwf
  rw [State.finish_res, BitVec.toNat_ofNat, Nat.mod_eq_of_lt (by omega)]

theorem State.finish_orderBits_res (s : State) (n d : Nat) :
    (s.finish (orderBits n d).toNat).res = orderWord n d := rfl

/-- How SEQ_SUB, SEQ_CMP and SEQ_INWIN end: both operands are checked before RES takes `v` (R453 to R455). -/
def State.finishChecked (s : State) (v : Nat) : State :=
  if ¬ s.inRange s.opa.toNat ∨ ¬ s.inRange s.opb.toNat then s.fail .erange else s.finish v

theorem State.finishChecked_of_inRange {s : State} (hopa : s.inRange s.opa.toNat) (hopb : s.inRange s.opb.toNat)
    (v : Nat) : s.finishChecked v = s.finish v :=
  if_neg (not_or.mpr ⟨not_not.mpr hopa, not_not.mpr hopb⟩)

theorem State.finishChecked_of_ge {s : State} (h : s.opa.toNat ≥ s.cfg.n ∨ s.opb.toNat ≥ s.cfg.n) (v : Nat) :
    s.finishChecked v = s.fail .erange :=
  if_pos (h.imp Nat.not_lt.mpr Nat.not_lt.mpr)

theorem exec_seqAdd (s : State) : exec .seqAdd s = execSeqAdd s := rfl

theorem exec_seqSub (s : State) :
    exec .seqSub s = .next (s.finishChecked (distance s.cfg.n s.opa.toNat s.opb.toNat)) := rfl

theorem exec_seqInwin (s : State) :
    exec .seqInwin s =
      .next (s.finishChecked (if distance s.cfg.n s.opa.toNat s.opb.toNat < s.opc.toNat then 1 else 0)) := rfl

theorem exec_seqCmp (s : State) :
    exec .seqCmp s =
      .next (s.finishChecked (orderBits s.cfg.n (distance s.cfg.n s.opb.toNat s.opa.toNat)).toNat) := rfl

section InRange

variable {s : State} (hopa : s.inRange s.opa.toNat) (hopb : s.inRange s.opb.toNat)

include hopa

theorem exec_seqAdd_of_inRange :
    exec .seqAdd s = .next (s.finish ((s.opa.toNat + s.opb.toNat) % s.cfg.n)) := by
  rw [exec_seqAdd, execSeqAdd, if_neg (not_not.mpr hopa)]

include hopb

theorem exec_seqSub_of_inRange :
    exec .seqSub s = .next (s.finish (distance s.cfg.n s.opa.toNat s.opb.toNat)) := by
  rw [exec_seqSub, State.finishChecked_of_inRange hopa hopb]

theorem exec_seqInwin_of_inRange :
    exec .seqInwin s =
      .next (s.finish (if distance s.cfg.n s.opa.toNat s.opb.toNat < s.opc.toNat then 1 else 0)) := by
  rw [exec_seqInwin, State.finishChecked_of_inRange hopa hopb]

theorem exec_seqCmp_of_inRange :
    exec .seqCmp s =
      .next (s.finish (orderBits s.cfg.n (distance s.cfg.n s.opb.toNat s.opa.toNat)).toNat) := by
  rw [exec_seqCmp, State.finishChecked_of_inRange hopa hopb]

end InRange

theorem State.finish_bool_res_eq_one_iff (s : State) (p : Prop) [Decidable p] :
    (s.finish (if p then 1 else 0)).res = 1#32 ↔ p := by
  by_cases hp : p <;> simp [hp]

theorem State.finish_bool_res_cases (s : State) (p : Prop) [Decidable p] :
    (s.finish (if p then 1 else 0)).res = 0#32 ∨ (s.finish (if p then 1 else 0)).res = 1#32 := by
  by_cases hp : p <;> simp [hp]

theorem exec_endSeq (s : State) : exec .endSeq s = execEndSeq s := rfl

/-- R456: END_SEQ with both checks passed. -/
theorem exec_endSeq_of_checks {s : State} (hlen : s.fits s.len.toNat) (hseq : s.inRange s.seq.toNat) :
    exec .endSeq s =
      .next (s.finish ((s.seq.toNat + s.len.toNat + s.flagSyn.toNat + s.flagFin.toNat) % s.cfg.n)) := by
  rw [exec_endSeq, execEndSeq, if_neg (not_not.mpr hlen), if_neg (not_not.mpr hseq)]

/-- R456: a data segment, with neither SYN nor FIN, ends its length after its own number. -/
theorem exec_endSeq_of_data {s : State} (hlen : s.fits s.len.toNat) (hseq : s.inRange s.seq.toNat)
    (hsyn : s.flags.getLsbD 0 = false) (hfin : s.flags.getLsbD 1 = false) :
    exec .endSeq s = .next (s.finish ((s.seq.toNat + s.len.toNat) % s.cfg.n)) := by
  rw [exec_endSeq_of_checks hlen hseq, State.flagSyn, State.flagFin, hsyn, hfin]
  rfl

/-! ### Each command whole -/

/-- Settles O29. -/
theorem seqAddRule : Obligations.SeqAddRule := by
  refine ⟨decodeCommand_word .seqAdd, fun s hwf => ⟨fun hopa => ?ok, fun hopa => ?erange⟩⟩
  case ok =>
    exact ⟨_, exec_seqAdd_of_inRange hopa, rfl,
      State.finish_res_toNat hwf (Nat.mod_lt _ (Nat.zero_lt_of_lt hopa))⟩
  case erange => rw [exec_seqAdd, execSeqAdd, if_pos (Nat.not_lt.mpr hopa)]; rfl

/-- Settles O30. -/
theorem seqSubRule : Obligations.SeqSubRule := by
  refine ⟨decodeCommand_word .seqSub, fun s hwf => ⟨fun hopa hopb => ?ok, fun h => ?erange⟩⟩
  case ok =>
    have hn : 0 < s.cfg.n := Nat.zero_lt_of_lt hopa
    have hres := State.finish_res_toNat hwf (distance_lt s.opa.toNat s.opb.toNat hn)
    exact ⟨_, exec_seqSub_of_inRange hopa hopb, rfl, by rw [hres, distance_cast _ _ hn],
      by rw [hres, distance_eq hopa hopb]⟩
  case erange => rw [exec_seqSub, State.finishChecked_of_ge h]; rfl

/-- Settles O31. -/
theorem seqCmpRule : Obligations.SeqCmpRule := by
  refine ⟨decodeCommand_word .seqCmp, fun s d hwf hd => ⟨fun hopa hopb => ?ok, fun h => ?erange⟩⟩
  case ok =>
    obtain rfl : d = distance s.cfg.n s.opb.toNat s.opa.toNat :=
      Int.ofNat_inj.mp (hd.trans (distance_cast _ _ (Nat.zero_lt_of_lt hopa)).symm)
    exact ⟨_, exec_seqCmp_of_inRange hopa hopb, rfl, orderWord_getLsbD_zero _ _, orderWord_getLsbD_one _ _,
      orderWord_getLsbD_two _ _, fun _ hk => orderWord_getLsbD_of_ge _ _ hk⟩
  case erange => rw [exec_seqCmp, State.finishChecked_of_ge h]; rfl

/-- Settles O33. -/
theorem seqInwinRule : Obligations.SeqInwinRule := by
  refine ⟨decodeCommand_word .seqInwin, fun s hwf => ⟨fun hopa hopb => ?ok, fun h => ?erange⟩⟩
  case ok =>
    have hone := s.finish_bool_res_eq_one_iff (distance s.cfg.n s.opa.toNat s.opb.toNat < s.opc.toNat)
    refine ⟨_, exec_seqInwin_of_inRange hopa hopb, rfl, s.finish_bool_res_cases _, ?_,
      hone.trans (distance_lt_iff_exists _ hopa hopb)⟩
    rw [hone, ← distance_cast _ _ (Nat.zero_lt_of_lt hopa), Nat.cast_lt]
  case erange => rw [exec_seqInwin, State.finishChecked_of_ge h]; rfl

/-- Settles O34: one clause per way the two checks can come out. -/
theorem endSeqRule : Obligations.EndSeqRule := by
  refine ⟨decodeCommand_word .endSeq, fun s hwf => ⟨fun hlen => ?elen, fun hlen hseq => ?erange,
    fun hlen hseq => ?ok⟩⟩
  case elen => rw [exec_endSeq, execEndSeq, if_pos (Nat.not_le.mpr hlen)]; rfl
  case erange =>
    rw [exec_endSeq, execEndSeq, if_neg (not_not.mpr hlen), if_pos (Nat.not_lt.mpr hseq)]
    rfl
  case ok =>
    refine ⟨_, exec_endSeq_of_checks hlen hseq, rfl, ?_⟩
    rw [State.finish_res_toNat hwf (Nat.mod_lt _ (Nat.zero_lt_of_lt hseq))]
    simp only [State.flagSyn, State.flagFin, Bool.toNat, cond_eq_ite]

/-! ### SEQ_CMP as a circular order (R454) -/

/-- Settles O32: the two comparisons see the two distances between the operands, one from each side. -/
theorem seqCmpIsACircularOrder : Obligations.SeqCmpIsACircularOrder := by
  intro s hwf hopa hopb
  have hnone := (orderWord_eq_zero_iff (distance s.cfg.n s.opb.toNat s.opa.toNat) (Nat.zero_lt_of_lt hopa))
  refine ⟨_, _, exec_seqCmp_of_inRange hopa hopb,
    exec_seqCmp_of_inRange (s := { s with opa := s.opb, opb := s.opa }) hopb hopa, ?swap, ?eq, ?one, ?odd, ?apart⟩
  all_goals simp only [State.finish_orderBits_res]
  case swap =>
    rw [orderWord_getLsbD_two, orderWord_getLsbD_one, decide_eq_decide]
    exact distance_swap_gt_iff hopa hopb
  case eq =>
    rw [orderWord_getLsbD_zero, orderWord_getLsbD_zero, decide_eq_decide, distance_eq_zero_iff hopb hopa,
      distance_eq_zero_iff hopa hopb, eq_comm]
  case one => exact orderWord_cases _ _
  case odd =>
    rw [Ne, hnone]
    omega
  case apart => exact hnone.trans (two_mul_distance_eq_iff hopb hopa)

/-- Settles O38: the distance from a segment to its end-sequence is its length, across the wrap too. -/
theorem successiveSegmentsIncrease : Obligations.SuccessiveSegmentsIncrease := by
  intro s hwf hseq hlen hsyn hfin hpos hhalf
  have hend : (s.seq.toNat + s.len.toNat) % s.cfg.n < s.cfg.n := Nat.mod_lt _ (Nat.zero_lt_of_lt hseq)
  have hres := State.finish_res_toNat hwf hend
  have hself : (s.seq.setWidth 32).toNat = s.seq.toNat := BitVec.toNat_setWidth_of_le (by decide)
  refine ⟨_, _, exec_endSeq_of_data hlen hseq hsyn hfin,
    exec_seqCmp_of_inRange (hself.trans_lt hseq) (hres.trans_lt hend), rfl, ?_⟩
  have hdist : distance s.cfg.n ((s.seq.toNat + s.len.toNat) % s.cfg.n) s.seq.toNat = s.len.toNat := by
    rw [distance_add_mod _ hseq, Nat.mod_eq_of_lt (by omega)]
  simp only [State.finish_orderBits_res, hres, hself, hdist, State.finish_cfg]
  rw [orderWord_eq_ite, if_neg hpos.ne', if_pos hhalf]

/-! ### The derived laws (R457) -/

/-- SEQ_ADD of operands written for it, as far as a next command sees it. -/
theorem exec_seqAdd_operands {s : State} (hwf : s.cfg.wf) {a : Word} (ha : a.toNat < s.cfg.n) (n : Word) :
    ∃ t, exec .seqAdd { s with opa := a, opb := n } = .next t ∧ t.cfg = s.cfg ∧ t.status = .ok ∧
      t.res.toNat = (a.toNat + n.toNat) % s.cfg.n ∧ t.res.toNat < t.cfg.n := by
  have hsum : (a.toNat + n.toNat) % s.cfg.n < s.cfg.n := Nat.mod_lt _ (Nat.zero_lt_of_lt ha)
  have hres := State.finish_res_toNat (s := { s with opa := a, opb := n }) hwf hsum
  exact ⟨_, exec_seqAdd_of_inRange ha, rfl, rfl, hres, hres.trans_lt hsum⟩

/-- SEQ_SUB of operands written for it, as far as a next command sees it. -/
theorem exec_seqSub_operands {s : State} (hwf : s.cfg.wf) {a b : Word} (ha : a.toNat < s.cfg.n)
    (hb : b.toNat < s.cfg.n) :
    ∃ t, exec .seqSub { s with opa := a, opb := b } = .next t ∧ t.cfg = s.cfg ∧ t.status = .ok ∧
      t.res.toNat = distance s.cfg.n a.toNat b.toNat :=
  ⟨_, exec_seqSub_of_inRange ha hb, rfl, rfl,
    State.finish_res_toNat hwf (distance_lt _ _ (Nat.zero_lt_of_lt ha))⟩

/-- Settles O35: a sum reduced and added to is the whole sum reduced. -/
theorem seqAddComposes : Obligations.SeqAddComposes := by
  intro s a n m hwf ha hsum
  obtain ⟨t, ht, hcfg, -, hres, hrange⟩ := exec_seqAdd_operands hwf ha n
  obtain ⟨u, hu, -, huok, hures, -⟩ := exec_seqAdd_operands (hcfg ▸ hwf) hrange m
  obtain ⟨v, hv, -, hvok, hvres, -⟩ := exec_seqAdd_operands hwf ha (n + m)
  refine ⟨t, u, v, ht, hu, hv, huok, hvok, BitVec.eq_of_toNat_eq ?_⟩
  rw [hures, hvres, hcfg, hres, Nat.mod_add_mod, BitVec.toNat_add_of_lt hsum, Nat.add_assoc]

/-- Settles O36: the distance back from `n` steps forward is `n` less its whole turns, and the distance forward
leads where it was measured to. -/
theorem seqSubAndSeqAddUndoEachOther : Obligations.SeqSubAndSeqAddUndoEachOther := by
  refine fun s a b n hwf ha hb => ⟨?addThenSub, ?subThenAdd⟩
  case addThenSub =>
    obtain ⟨t, ht, hcfg, -, hres, hrange⟩ := exec_seqAdd_operands hwf ha n
    obtain ⟨u, hu, -, huok, hures⟩ := exec_seqSub_operands (hcfg ▸ hwf) hrange (hcfg ▸ ha)
    refine ⟨t, u, ht, hu, huok, ?_⟩
    rw [hures, hcfg, hres, distance_add_mod _ ha]
  case subThenAdd =>
    obtain ⟨t, ht, hcfg, -, hres⟩ := exec_seqSub_operands hwf ha hb
    obtain ⟨u, hu, -, huok, hures, -⟩ := exec_seqAdd_operands (hcfg ▸ hwf) (hcfg ▸ hb) t.res
    refine ⟨t, u, ht, hu, huok, BitVec.eq_of_toNat_eq ?_⟩
    rw [hures, hcfg, hres, add_distance_mod ha hb]

/-- Settles O37: EQ is a distance of 0, SEQ_INWIN and SEQ_SUB form the same distance, and a data segment
consumes its length. -/
theorem seqCommandsAgree : Obligations.SeqCommandsAgree := by
  refine fun s hwf => ⟨fun hopa hopb => ⟨?eq, ?inwin⟩, fun hseq hlen hsyn hfin => ?endSeq⟩
  case eq =>
    refine ⟨_, exec_seqCmp_of_inRange hopa hopb, ?_⟩
    rw [State.finish_orderBits_res, orderWord_getLsbD_zero, decide_eq_true_iff, distance_eq_zero_iff hopb hopa,
      BitVec.toNat_inj, eq_comm]
  case inwin =>
    refine ⟨_, _, exec_seqInwin_of_inRange hopa hopb, exec_seqSub_of_inRange hopa hopb, ?_⟩
    rw [State.finish_bool_res_eq_one_iff,
      State.finish_res_toNat hwf (distance_lt _ _ (Nat.zero_lt_of_lt hopa))]
  case endSeq =>
    have hself : (s.seq.setWidth 32).toNat = s.seq.toNat := BitVec.toNat_setWidth_of_le (by decide)
    refine ⟨_, _, exec_endSeq_of_data hlen hseq hsyn hfin, exec_seqAdd_of_inRange (hself.trans_lt hseq), ?_⟩
    simp only [State.finish_res, hself]

end Sys2Proof.Machine

/-! The statements of 42_host_access.md: REG_WRITE, REG_READ, FB_WRITE and FB_READ, completed and refused (R480
to R483), and that no read changes what a run is observed to leave (20_memory.md section 4). -/

/-! ### The accesses the port refuses -/

namespace Sys2Proof.Machine

/-- R480: a REG_WRITE at a misaligned offset, or past CFG_ORDER, is a BusError. -/
theorem exec_regWrite_of_not_mapped {off : BitVec 30} (h : off.toNat % 4 ≠ 0 ∨ 0x38 ≤ off.toNat) (w : Word)
    (s : State) : exec (.regWrite off w) s = .fault (.busError off.toNat) := by
  rw [exec, execRegWrite, regWriteAt, (regAt_eq_none_iff off.toNat).mpr h, raiseBusError]

/-- R481: a REG_READ at a misaligned offset, or past CFG_ORDER, is a BusError. -/
theorem exec_regRead_of_not_mapped {off : BitVec 30} (h : off.toNat % 4 ≠ 0 ∨ 0x38 ≤ off.toNat) (s : State) :
    exec (.regRead off) s = .fault (.busError off.toNat) := by
  rw [exec, execRegRead, regReadAt, (regAt_eq_none_iff off.toNat).mpr h, raiseBusError]

/-- R482: an FB_WRITE at or past FRAME_SIZE is a BusError. -/
theorem exec_fbWrite_of_ge {s : State} {i : BitVec 30} (hi : frameSize s.cfg ≤ i.toNat) (data : Word) :
    exec (.fbWrite i data) s = .fault (.busError (fbBase + i.toNat)) :=
  if_pos hi

/-- R483: an FB_READ at or past FRAME_SIZE is a BusError. -/
theorem exec_fbRead_of_ge {s : State} {i : BitVec 30} (hi : frameSize s.cfg ≤ i.toNat) :
    exec (.fbRead i) s = .fault (.busError (fbBase + i.toNat)) :=
  if_pos hi

/-- R208, R209: the width is not the one of the port's part the offset lies in. -/
def WrongWidth (width : Nat) (off : Word) : Prop :=
  (off.toNat < fbBase ∧ width ≠ 32) ∨ (fbBase ≤ off.toNat ∧ width ≠ 8)

/-- R610: a write of the wrong width is a BusError. -/
theorem portAccess_write_of_wrongWidth {width : Nat} {off : Word} (h : WrongWidth width off) (data : Word)
    (s : State) : portAccess (.write width off data) s = .fault (.busError off.toNat) := by
  rcases h with ⟨hlow, hwidth⟩ | ⟨hhigh, hwidth⟩
  · rw [portAccess, if_pos hlow, if_pos hwidth, raiseBusError]
  · rw [portAccess, if_neg (Nat.not_lt.mpr hhigh), if_pos hwidth, raiseBusError]

/-- R610: a read of the wrong width is a BusError. -/
theorem portAccess_read_of_wrongWidth {width : Nat} {off : Word} (h : WrongWidth width off) (s : State) :
    portAccess (.read width off) s = .fault (.busError off.toNat) := by
  rcases h with ⟨hlow, hwidth⟩ | ⟨hhigh, hwidth⟩
  · rw [portAccess, if_pos hlow, if_pos hwidth, raiseBusError]
  · rw [portAccess, if_neg (Nat.not_lt.mpr hhigh), if_pos hwidth, raiseBusError]

/-! ### Register writes -/

/-- R311, R605: a write of an illegal word to CMD reports EOP and nothing else. -/
theorem writeCmd_of_decodeCommand_error {w : Word} {e : DecodeError} (he : decodeCommand w = .error e)
    (s : State) : writeCmd w s = .next (s.fail .eop) := by
  rw [writeCmd, he]

/-- R103, R480: SEQ stores the low 16 bits. -/
theorem State.writeReg_seq (s : State) (w : Word) : s.writeReg .seq w = { s with seq := w.extractLsb' 0 16 } := by
  rw [State.writeReg, BitVec.setWidth_eq_extractLsb' (by decide), State.withSeq]

/-- R103, R480: ACK stores the low 16 bits. -/
theorem State.writeReg_ack (s : State) (w : Word) : s.writeReg .ack w = { s with ack := w.extractLsb' 0 16 } := by
  rw [State.writeReg, BitVec.setWidth_eq_extractLsb' (by decide), State.withAck]

/-- R104, R480: FLAGS stores the low 4 bits. -/
theorem State.writeReg_flags (s : State) (w : Word) :
    s.writeReg .flags w = { s with flags := w.extractLsb' 0 4 } := by
  rw [State.writeReg, BitVec.setWidth_eq_extractLsb' (by decide), State.withFlags]

/-- R104: ACKLIKE of the four flags a written word holds. -/
theorem ackLike_extractLsb' (w : Word) : ackLike (w.extractLsb' 0 4) = (w.getLsbD 3 || w.getLsbD 2) := by
  rw [ackLike, BitVec.getLsbD_extractLsb', BitVec.getLsbD_extractLsb', Bool.or_comm]
  rfl

/-- Settles O12: CMD's write is the command's, any other mapped offset's is the register's own, and the rest
are not mapped. -/
theorem regWriteRule : Obligations.RegWriteRule := by
  intro s w
  have hstored (r : Reg) (hr : r ≠ .cmd) : exec (.regWrite r.offset w) s = .next (s.writeReg r w) :=
    exec_regWrite_offset hr w s
  refine ⟨fun c hc => writeCmd_of_decodeCommand hc s, fun e he => writeCmd_of_decodeCommand_error he s,
    hstored .status (by decide), ?seq, ?ack, ?flags, hstored .len (by decide), hstored .opa (by decide),
    hstored .opb (by decide), hstored .opc (by decide), hstored .res (by decide), hstored .cfgN (by decide),
    hstored .cfgCap (by decide), hstored .cfgHdr (by decide), hstored .cfgOrder (by decide),
    fun off hoff => exec_regWrite_of_not_mapped hoff w s,
    fun width off hlow hwidth => portAccess_write_of_wrongWidth (.inl ⟨hlow, hwidth⟩) w s⟩
  case seq => exact s.writeReg_seq w ▸ hstored .seq (by decide)
  case ack => exact s.writeReg_ack w ▸ hstored .ack (by decide)
  case flags =>
    refine ⟨_, hstored .flags (by decide), s.writeReg_flags w, ?_⟩
    rw [State.writeReg_flags, State.readReg, flagsWord, ackLike_extractLsb']

/-! ### Register reads -/

/-- R602: the number STATUS reads as. -/
theorem StatusCode.number_setWidth (c : StatusCode) :
    c.number.setWidth 32 =
      if c = .ok then 0#32 else if c = .elen then 1#32 else if c = .erange then 2#32 else 3#32 := by
  cases c <;> rfl

/-- R120: what CFG_ORDER reads as. -/
theorem orderCode_eq_ite (o : ByteOrder) : orderCode o = if o = .be then 1#32 else 0#32 := by
  cases o <;> rfl

/-- Settles O13: a mapped offset returns what its register reads as, and the rest are not mapped. -/
theorem regReadRule : Obligations.RegReadRule := by
  intro s
  have hread (r : Reg) : exec (.regRead r.offset) s = .next (s.give (.word (s.readReg r))) :=
    exec_regRead_offset r s
  refine ⟨hread .cmd, ?status, hread .seq, hread .ack, hread .flags, hread .len, hread .opa, hread .opb,
    hread .opc, hread .res, hread .cfgN, hread .cfgCap, hread .cfgHdr, ?order,
    fun off hoff => exec_regRead_of_not_mapped hoff s,
    fun width off hlow hwidth => portAccess_read_of_wrongWidth (.inl ⟨hlow, hwidth⟩) s⟩
  case status => exact s.status.number_setWidth ▸ hread .status
  case order => exact orderCode_eq_ite s.cfg.order ▸ hread .cfgOrder

/-! ### The frame buffer -/

/-- Settles O14. -/
theorem fbWriteRule : Obligations.FbWriteRule := by
  refine fun s i data => ⟨fun hi => ?inside, fun hi => exec_fbWrite_of_ge hi data,
    fun width off hhigh hwidth => portAccess_write_of_wrongWidth (.inr ⟨hhigh, hwidth⟩) data s⟩
  case inside =>
    refine ⟨_, exec_fbWrite_of_lt hi data, rfl, ?_, fun j hj => s.fbByte_setFbByte_ne _ hj⟩
    rw [State.fbByte_setFbByte_same, BitVec.setWidth_eq_extractLsb' (by decide)]

/-- Settles O15. -/
theorem fbReadRule : Obligations.FbReadRule := fun s _ =>
  ⟨fun hi => exec_fbRead_of_lt hi, fun hi => exec_fbRead_of_ge hi,
    fun _ _ hhigh hwidth => portAccess_read_of_wrongWidth (.inr ⟨hhigh, hwidth⟩) s⟩

/-! ### Reads and what a run is observed to leave -/

/-- R481, R483: a read on the port that completes returns one value and does nothing else. -/
theorem portAccess_read_effect {width : Nat} {off : Word} {s t : State}
    (h : portAccess (.read width off) s = .next t) : ∃ v, t = s.give v := by
  rw [portAccess] at h
  split_ifs at h
  · cases h
  · exact regReadAt_effect h
  · cases h
  · exact fbReadAt_effect h

/-- R211: no register reads differently after a read. -/
theorem State.readReg_give (s : State) (v : ReadValue) (r : Reg) : (s.give v).readReg r = s.readReg r := by
  cases r <;> rfl

end Sys2Proof.Machine

namespace Sys2Proof.Safety

open Sys2Proof.Machine

/-- R13: a returned value joins the observed reads; the registers and FB are observed as they were. -/
theorem observe_give (s : State) (v : ReadValue) :
    observe (s.give v) = { observe s with reads := s.returned ++ [v] } := by
  have hregs : allRegs.map (s.give v).readReg = allRegs.map s.readReg :=
    List.map_congr_left fun r _ => State.readReg_give s v r
  have hframe : (s.give v).fbBytes 0 (frameSize s.cfg) = s.fbBytes 0 (frameSize s.cfg) :=
    State.fbBytes_congr fun i _ _ => State.fbByte_give s v i
  rw [observe, hregs, State.give_cfg, hframe, State.give_returned, observe]

/-- Settles O44. -/
theorem readsHaveNoSideEffect : Obligations.ReadsHaveNoSideEffect := by
  intro s t width off h
  obtain ⟨v, rfl⟩ := portAccess_read_effect h
  exact ⟨v, rfl, observe_give s v⟩

end Sys2Proof.Safety

/-! The statements of 60_exceptions.md: when an access is a BusError and where a run ends (R610, R13), the status
every command reports (R603, R604, R606), and what a failing command writes (R601, R607). -/

/-! ### The accesses the port accepts -/

namespace Sys2Proof.Machine

open Sys2Proof.Safety

/-- R112, R480: a write of a mapped offset completes; CMD's is a command, and every command does. -/
theorem exists_regWriteAt_of_mapped {o : Nat} (ho : o % 4 = 0 ∧ o ≤ 0x34) (w : Word) (s : State) :
    ∃ t, regWriteAt o w s = .next t := by
  obtain ⟨r, hr⟩ := Option.isSome_iff_exists.mp ((regAt_isSome_iff o).mpr ho)
  rw [regWriteAt, hr]
  cases r with
  | cmd =>
    obtain ⟨t, ht, -⟩ := writeCmd_effect w s
    exact ⟨t, ht⟩
  | _ => exact ⟨_, rfl⟩

/-- R112, R481: a read of a mapped offset completes. -/
theorem exists_regReadAt_of_mapped {o : Nat} (ho : o % 4 = 0 ∧ o ≤ 0x34) (s : State) :
    ∃ t, regReadAt o s = .next t := by
  obtain ⟨r, hr⟩ := Option.isSome_iff_exists.mp ((regAt_isSome_iff o).mpr ho)
  exact ⟨_, by rw [regReadAt, hr]⟩

/-- What an accepted access reaches: a register, or a byte of the frame buffer. -/
theorem cases_of_accepted {p : Params} {width off : Nat} (h : Accepted p width off) :
    (width = 32 ∧ off % 4 = 0 ∧ off ≤ 0x34) ∨ (width = 8 ∧ ∃ i, off = fbBase + i ∧ i < frameSize p) := by
  refine h.imp_right fun ⟨hwidth, hlow, hhigh⟩ => ?_
  obtain ⟨i, rfl⟩ := Nat.exists_eq_add_of_le hlow
  exact ⟨hwidth, i, rfl, Nat.lt_of_add_lt_add_left hhigh⟩

/-- R208, R209: an accepted access completes, whatever the state holds. -/
theorem exists_portAccess_of_accepted {a : PortAccess} {width off : Nat} {s : State}
    (ha : accessOf (.access a) = some (width, off)) (h : Accepted s.cfg width off) :
    ∃ t, portAccess a s = .next t := by
  cases a with
  | read w o =>
    cases ha
    rcases cases_of_accepted h with ⟨rfl, hmapped⟩ | ⟨rfl, i, ho, hi⟩
    · exact portAccess_read_32 o s ▸ exists_regReadAt_of_mapped hmapped s
    · exact ⟨_, (portAccess_read_8 ho s).trans (if_neg (Nat.not_le.mpr hi))⟩
  | write w o data =>
    cases ha
    rcases cases_of_accepted h with ⟨rfl, hmapped⟩ | ⟨rfl, i, ho, hi⟩
    · exact portAccess_write_32 o data s ▸ exists_regWriteAt_of_mapped hmapped data s
    · exact ⟨_, (portAccess_write_8 ho data s).trans (if_neg (Nat.not_le.mpr hi))⟩

/-- Why an access is not accepted: its width, an offset of no register, or an index past the frame buffer. -/
theorem cases_of_not_accepted {p : Params} {width : Nat} {off : Word} (h : ¬ Accepted p width off.toNat) :
    WrongWidth width off ∨ (width = 32 ∧ regAt off.toNat = none) ∨
      (width = 8 ∧ ∃ i, off.toNat = fbBase + i ∧ frameSize p ≤ i) := by
  rw [regAt_eq_none_iff, WrongWidth]
  by_cases hlow : off.toNat < fbBase
  · by_cases hwidth : width = 32
    · exact .inr (.inl ⟨hwidth, by omega⟩)
    · exact .inl (.inl ⟨hlow, hwidth⟩)
  · by_cases hwidth : width = 8
    · obtain ⟨i, hi⟩ := Nat.exists_eq_add_of_le (Nat.not_lt.mp hlow)
      rw [hi, fbBase] at h
      exact .inr (.inr ⟨hwidth, i, hi, by omega⟩)
    · exact .inl (.inr ⟨Nat.not_lt.mp hlow, hwidth⟩)

/-- R610: an access that is not accepted is a BusError at its offset. -/
theorem portAccess_of_not_accepted {a : PortAccess} {width off : Nat} {s : State}
    (ha : accessOf (.access a) = some (width, off)) (h : ¬ Accepted s.cfg width off) :
    portAccess a s = .fault (.busError off) := by
  cases a with
  | read w o =>
    cases ha
    rcases cases_of_not_accepted h with hwidth | ⟨rfl, hnone⟩ | ⟨rfl, i, ho, hi⟩
    · exact portAccess_read_of_wrongWidth hwidth s
    · rw [portAccess_read_32, regReadAt, hnone, raiseBusError]
    · rw [portAccess_read_8 ho, fbReadAt, if_pos hi, raiseBusError, ho]
  | write w o data =>
    cases ha
    rcases cases_of_not_accepted h with hwidth | ⟨rfl, hnone⟩ | ⟨rfl, i, ho, hi⟩
    · exact portAccess_write_of_wrongWidth hwidth data s
    · rw [portAccess_write_32, regWriteAt, hnone, raiseBusError]
    · rw [portAccess_write_8 ho, fbWriteAt, if_pos hi, raiseBusError, ho]

/-- The cases R610 lists are those in which the access reaches no register and no byte. -/
theorem listed_iff_not_accepted (p : Params) (width off : Nat) :
    ((off < 0x100 ∧ (width ≠ 32 ∨ off % 4 ≠ 0)) ∨ (0x38 ≤ off ∧ off ≤ 0xFC) ∨
      (0x100 ≤ off ∧ off < 0x100 + frameSize p ∧ width ≠ 8) ∨ 0x100 + frameSize p ≤ off) ↔
        ¬ Accepted p width off := by
  unfold Accepted
  omega

/-- Settles O10: R610's list is `¬ Accepted`, and the port's answer follows `Accepted` both ways. -/
theorem busErrorExactlyInTheListedCases : Obligations.BusErrorExactlyInTheListedCases := by
  intro s rest width off data a ha hp
  have haccess : accessOf (.access a) = some (width, off.toNat) := by
    rcases ha with rfl | rfl <;> rfl
  rw [step_of_program_cons hp, listed_iff_not_accepted, not_not]
  exact ⟨portAccess_of_not_accepted (s := s.withProgram rest) haccess,
    exists_portAccess_of_accepted (s := s.withProgram rest) haccess⟩

/-! ### Host events and their accesses -/

/-- R313, log 8: an event that asks for an access is answered as that access on the port. -/
theorem exists_portAccess_of_accessOf {e : HostEvent} {width off : Nat} (h : accessOf e = some (width, off)) :
    ∃ a, accessOf (.access a) = some (width, off) ∧ ∀ s, runEvent e s = portAccess a s := by
  cases e with
  | reset => cases h
  | access a => exact ⟨a, h, fun _ => rfl⟩
  | record r =>
    rw [accessOf] at h
    split at h
    next o data hd =>
      cases h
      refine ⟨.write 32 (o.setWidth 32) data, by rw [accessOf, toNat_setWidth_off], fun s => ?_⟩
      obtain ⟨hport, -, -, -⟩ := transactionsArePortAccesses s o data
      exact (runRecord_of_decode hd s).trans hport
    next o hd =>
      cases h
      refine ⟨.read 32 (o.setWidth 32), by rw [accessOf, toNat_setWidth_off], fun s => ?_⟩
      obtain ⟨-, hport, -, -⟩ := transactionsArePortAccesses s o 0#32
      exact (runRecord_of_decode hd s).trans hport
    next o data hd =>
      cases h
      refine ⟨.write 8 (0x100#32 + o.setWidth 32) data, by rw [accessOf, toNat_fbBase_add_off]; rfl,
        fun s => ?_⟩
      obtain ⟨-, -, hport, -⟩ := transactionsArePortAccesses s o data
      exact (runRecord_of_decode hd s).trans hport
    next o hd =>
      cases h
      refine ⟨.read 8 (0x100#32 + o.setWidth 32), by rw [accessOf, toNat_fbBase_add_off]; rfl, fun s => ?_⟩
      obtain ⟨-, -, -, hport⟩ := transactionsArePortAccesses s o 0#32
      exact (runRecord_of_decode hd s).trans hport
    next => cases h

/-- The parameters and the host's remaining events are as they were (R702, R13). -/
abbrev SameBlockAndHost (s t : State) : Prop := t.cfg = s.cfg ∧ t.program = s.program

/-- R702: no command touches the parameters or the host's events. -/
theorem CommandEffect.sameBlockAndHost {s t : State} (he : CommandEffect s t) : SameBlockAndHost s t := by
  cases he with
  | failed code _ => exact ⟨rfl, rfl⟩
  | built => exact ⟨rfl, rfl⟩
  | parsed code => exact ⟨rfl, rfl⟩
  | finished v _ => exact ⟨rfl, rfl⟩

/-- R702: no accepted access touches the parameters or the host's events. -/
theorem PortEffect.sameBlockAndHost {s t : State} (he : PortEffect s t) : SameBlockAndHost s t := by
  cases he with
  | command w _ hw =>
    obtain ⟨t', ht', heff⟩ := writeCmd_effect w s
    cases ht'.symm.trans hw
    exact heff.sameBlockAndHost
  | stored r w =>
    obtain ⟨hcfg, -, -, -, -, hprogram, -⟩ := s.writeReg_frame r w
    exact ⟨hcfg, hprogram⟩
  | gave v => exact ⟨rfl, rfl⟩
  | wrote i b _ => exact ⟨rfl, rfl⟩

/-- An accepted event is answered with a next state of the same block. -/
theorem runEvent_of_acceptedEvent {e : HostEvent} {s : State} (h : AcceptedEvent s.cfg e) :
    ∃ t, runEvent e s = .next t ∧ SameBlockAndHost s t := by
  rcases h with rfl | ⟨⟨width, off⟩, hoff, haccepted⟩
  · exact ⟨s.applyReset, rfl, rfl, rfl⟩
  · obtain ⟨a, ha, hrun⟩ := exists_portAccess_of_accessOf hoff
    obtain ⟨t, ht⟩ := exists_portAccess_of_accepted ha haccepted
    exact ⟨t, (hrun s).trans ht, (portAccess_effect ht).sameBlockAndHost⟩

/-- R610: an event whose access is not accepted is answered with the BusError of its offset. -/
theorem runEvent_of_not_accepted {e : HostEvent} {width off : Nat} {s : State}
    (hoff : accessOf e = some (width, off)) (h : ¬ Accepted s.cfg width off) :
    runEvent e s = .fault (.busError off) := by
  obtain ⟨a, ha, hrun⟩ := exists_portAccess_of_accessOf hoff
  exact (hrun s).trans (portAccess_of_not_accepted ha h)

/-! ### Runs -/

/-- R13, R213: a run passes over accepted events, one step each, and comes to the event after them in the same
block. -/
theorem core_run_over_accepted {before : List HostEvent} :
    ∀ {s : State} {after : List HostEvent}, s.program = before ++ after →
      (∀ e ∈ before, AcceptedEvent s.cfg e) →
      ∃ t, t.cfg = s.cfg ∧ t.program = after ∧
        ∀ k, Sys2Proof.core.run (before.length + k) s = Sys2Proof.core.run k t := by
  induction before with
  | nil => exact fun {s} _ hp _ => ⟨s, rfl, hp, fun k => by rw [List.length_nil, Nat.zero_add]⟩
  | cons e before ih =>
    intro s after hp haccepted
    obtain ⟨he, hbefore⟩ := List.forall_mem_cons.mp haccepted
    obtain ⟨u, hu, hcfg, hprogram⟩ :=
      runEvent_of_acceptedEvent (s := s.withProgram (before ++ after)) he
    have hstep : step s = .next u := (step_of_program_cons hp).trans hu
    obtain ⟨t, htcfg, htprogram, hrun⟩ := ih hprogram (hcfg ▸ hbefore)
    refine ⟨t, htcfg.trans hcfg, htprogram, fun k => ?_⟩
    rw [List.length_cons, Nat.add_right_comm, core_run_of_next hstep, hrun]

/-- Settles O51: the accepted events are the whole program. -/
theorem acceptedProgramsRunToTheirEnd : Obligations.AcceptedProgramsRunToTheirEnd := by
  intro s haccepted
  obtain ⟨t, -, hprogram, hrun⟩ := core_run_over_accepted (List.append_nil s.program).symm haccepted
  exact ⟨t, hrun 0, hprogram⟩

/-- Settles O52: the run comes to the refused event, and a fault ends it with any number of steps left. -/
theorem runEndsAtTheFirstBusError : Obligations.RunEndsAtTheFirstBusError := by
  intro s before after e width off steps hp hbefore hoff hrefused
  obtain ⟨t, hcfg, hprogram, hrun⟩ := core_run_over_accepted hp hbefore
  have hstep : step t = .fault (.busError off) :=
    (step_of_program_cons hprogram).trans
      (runEvent_of_not_accepted (s := t.withProgram after) hoff (hcfg ▸ hrefused))
  rw [Nat.add_assoc, hrun, Nat.add_comm, core_run_of_fault hstep]

/-! ### The status a command reports -/

/-- R603: the command checks a length, and it exceeds CAP. -/
abbrev TooLong (s : State) (c : Command) : Prop := ∃ l, lengthChecked s c = some l ∧ l > s.cfg.cap

/-- R604: one of the sequence values the command checks is N or more. -/
abbrev OutOfRange (s : State) (c : Command) : Prop := ∃ v ∈ valuesChecked s c, v ≥ s.cfg.n

/-- What a failing command has written before its checks: PARSE the header registers, the others nothing (R601). -/
def State.writtenBeforeChecks (s : State) : Command → State
  | .parse => s.loadHeader
  | .build | .seqAdd | .seqSub | .seqCmp | .seqInwin | .endSeq => s

/-- How a command ends: its first failing check's status on what was written before the checks, or OK
(R603, R604, R606). -/
inductive CommandEnd (c : Command) (s : State) : State → Prop where
  /-- the length check fails -/
  | elen (hlen : TooLong s c) : CommandEnd c s ((s.writtenBeforeChecks c).fail .elen)
  /-- the length check passes and a range check fails -/
  | erange (hlen : ¬ TooLong s c) (hrange : OutOfRange s c) :
      CommandEnd c s ((s.writtenBeforeChecks c).fail .erange)
  /-- every check passes; `u` holds what the command wrote -/
  | ok (hlen : ¬ TooLong s c) (hrange : ¬ OutOfRange s c) (u : State) : CommandEnd c s u.done

theorem CommandEnd.of_range_check {c : Command} {s : State} {q : Prop} [Decidable q] (hlen : ¬ TooLong s c)
    (hq : q ↔ OutOfRange s c) (u : State) :
    CommandEnd c s (if q then (s.writtenBeforeChecks c).fail .erange else u.done) := by
  split
  next h => exact .erange hlen (hq.mp h)
  next h => exact .ok hlen (mt hq.mpr h) u

theorem CommandEnd.of_checks {c : Command} {s : State} {p q : Prop} [Decidable p] [Decidable q]
    (hp : p ↔ TooLong s c) (hq : q ↔ OutOfRange s c) (u : State) :
    CommandEnd c s (if p then (s.writtenBeforeChecks c).fail .elen
      else if q then (s.writtenBeforeChecks c).fail .erange else u.done) := by
  split
  next h => exact .elen (hp.mp h)
  next h => exact .of_range_check (mt hp.mpr h) hq u

/-- R603: a command that checks the length `l` finds it too long where it does not fit. -/
theorem not_fits_iff_tooLong {s : State} {c : Command} {l : Nat} (h : lengthChecked s c = some l) :
    ¬ s.fits l ↔ TooLong s c := by
  simp [TooLong, State.fits, h]

/-- R603: a command that checks no length finds none too long. -/
theorem not_tooLong {s : State} {c : Command} (h : lengthChecked s c = none) : ¬ TooLong s c := by
  simp [TooLong, h]

theorem not_inRange_iff_outOfRange {s : State} {c : Command} {v : Nat} (h : valuesChecked s c = [v]) :
    ¬ s.inRange v ↔ OutOfRange s c := by
  simp [OutOfRange, State.inRange, h]

theorem not_inRange_or_iff_outOfRange {s : State} {c : Command} {v w : Nat} (h : valuesChecked s c = [v, w]) :
    ¬ s.inRange v ∨ ¬ s.inRange w ↔ OutOfRange s c := by
  simp [OutOfRange, State.inRange, h]

/-- R606: every command's checks are those of R603 and R604, the length first. -/
theorem runCommand_end (c : Command) (s : State) : ∃ t, runCommand c s = .next t ∧ CommandEnd c s t := by
  cases c with
  | build =>
    exact ⟨_, rfl, .of_checks (not_fits_iff_tooLong rfl) (not_inRange_or_iff_outOfRange rfl) s.writeHeader⟩
  | parse =>
    exact ⟨_, rfl, .of_checks (not_fits_iff_tooLong rfl) (not_inRange_or_iff_outOfRange rfl) s.loadHeader⟩
  | seqAdd => exact ⟨_, rfl, .of_range_check (not_tooLong rfl) (not_inRange_iff_outOfRange rfl) _⟩
  | seqSub => exact ⟨_, rfl, .of_range_check (not_tooLong rfl) (not_inRange_or_iff_outOfRange rfl) _⟩
  | seqCmp => exact ⟨_, rfl, .of_range_check (not_tooLong rfl) (not_inRange_or_iff_outOfRange rfl) _⟩
  | seqInwin => exact ⟨_, rfl, .of_range_check (not_tooLong rfl) (not_inRange_or_iff_outOfRange rfl) _⟩
  | endSeq =>
    exact ⟨_, rfl, .of_checks (not_fits_iff_tooLong rfl) (not_inRange_iff_outOfRange rfl) _⟩

/-- Settles O39, by how a command can end. -/
theorem commandStatusAndPriority : Obligations.CommandStatusAndPriority := by
  refine ⟨fun s w e he => writeCmd_of_decodeCommand_error he s, fun c s => ?_⟩
  obtain ⟨t, ht, hend⟩ := runCommand_end c s
  refine ⟨t, (exec_toInstr c s).trans ht, ?_⟩
  cases hend with
  | elen hlen => exact ⟨fun _ => rfl, fun h => absurd hlen h, fun h => absurd hlen h⟩
  | erange hlen hrange => exact ⟨fun h => absurd h hlen, fun _ _ => rfl, fun _ h => absurd hrange h⟩
  | ok hlen hrange u => exact ⟨fun h => absurd h hlen, fun _ h => absurd h hrange, fun _ _ => rfl⟩

/-! ### What a failing command writes -/

theorem State.writtenBeforeChecks_of_ne_parse (s : State) {c : Command} (hc : c ≠ .parse) :
    s.writtenBeforeChecks c = s := by
  cases c with
  | parse => exact absurd rfl hc
  | _ => rfl

/-- R601: a command that fails adds STATUS to what it wrote before its checks. -/
theorem runCommand_of_status_ne_ok {c : Command} {s t : State} (h : runCommand c s = .next t)
    (hstatus : t.status ≠ .ok) : t = (s.writtenBeforeChecks c).withStatus t.status := by
  obtain ⟨t', ht', hend⟩ := runCommand_end c s
  cases ht'.symm.trans h
  cases hend with
  | elen hlen => rfl
  | erange hlen hrange => rfl
  | ok hlen hrange u => exact absurd rfl hstatus

/-- Settles O40. -/
theorem failingCommandWritesOnlyStatus : Obligations.FailingCommandWritesOnlyStatus := by
  intro c s t h hstatus
  have hwritten := runCommand_of_status_ne_ok ((exec_toInstr c s).symm.trans h) hstatus
  constructor
  · intro hc
    rwa [s.writtenBeforeChecks_of_ne_parse hc] at hwritten
  · rintro rfl
    exact hwritten

/-! ### STATUS -/

/-- R607: no check and no result of a command is made of the old STATUS, and every end writes it. -/
theorem runCommand_withStatus (c : Command) (s : State) (code : StatusCode) :
    runCommand c (s.withStatus code) = runCommand c s := by
  cases c <;> rfl

/-- R605, R607: a CMD write of any word overwrites the old STATUS. -/
theorem writeCmd_withStatus (w : Word) (s : State) (code : StatusCode) :
    writeCmd w (s.withStatus code) = writeCmd w s := by
  unfold writeCmd
  cases decodeCommand w with
  | ok c => exact runCommand_withStatus c s code
  | error e => rfl

/-- Settles O41, the second part by what an event can be (`runEvent_cases`). -/
theorem statusIsWrittenByEveryCommandOnly : Obligations.StatusIsWrittenByEveryCommandOnly := by
  refine ⟨fun s w code => writeCmd_withStatus w s code, fun s t e rest hp hs hstatus => ?_⟩
  rw [step_of_program_cons hp] at hs
  rcases runEvent_cases hs with hreset | ⟨w, hcmd, -⟩ | ⟨-, hkeep⟩
  · exact .inl hreset
  · exact .inr ⟨w, hcmd⟩
  · exact absurd hkeep hstatus

end Sys2Proof.Machine

/-! The statements of 70_reset_and_hazards.md: the state a reset leaves (R700), a reset among the host's events
(R213, log 9), and the parameters, which nothing changes (R702, R117 to R120). -/

namespace Sys2Proof.Machine

open Sys2Proof.Safety

/-! ### Reset -/

/-- R104: with no flag set FLAGS reads 0, ACKLIKE among its bits. -/
theorem flagsWord_zero : flagsWord 0#4 = 0#32 := by decide

/-- R700: after reset every register but the views of the parameters reads 0. -/
theorem State.readReg_resetWith_eq_zero (p : Params) (draw : Nat) {r : Reg} (hn : r ≠ .cfgN)
    (hcap : r ≠ .cfgCap) (hhdr : r ≠ .cfgHdr) (horder : r ≠ .cfgOrder) :
    (State.resetWith p draw).readReg r = 0#32 := by
  cases r with
  | cfgN => exact absurd rfl hn
  | cfgCap => exact absurd rfl hcap
  | cfgHdr => exact absurd rfl hhdr
  | cfgOrder => exact absurd rfl horder
  | flags => exact flagsWord_zero
  | cmd | status | seq | ack | len | opa | opb | opc | res => rfl

/-- I-1: nothing is written after reset, so every byte is the power-up draw's. -/
theorem State.fbByte_resetWith (p : Params) (draw i : Nat) :
    (State.resetWith p draw).fbByte i = Config.fbPowerUp draw i := rfl

/-- Settles O47. -/
theorem resetState : Obligations.ResetState := fun p draw _ =>
  ⟨State.readReg_resetWith_eq_zero p draw, rfl, rfl, rfl, orderCode_eq_ite p.order,
    State.fbByte_resetWith p draw⟩

/-- R700, R702: a reset leaves the registers of the block's reset state. -/
theorem State.applyReset_sameRegisters (s : State) :
    SameRegisters s.applyReset (State.resetWith s.cfg s.applyReset.powerUp) :=
  ⟨rfl, rfl, rfl, rfl, rfl, rfl, rfl, rfl, rfl, rfl⟩

/-- Settles O48: the step is the reset of the state whose host no longer has the event. -/
theorem resetEventResets : Obligations.ResetEventResets := by
  intro s rest hp
  have hstep : step s = .next (s.withProgram rest).applyReset := step_of_program_cons hp
  exact ⟨_, hstep, rfl, (s.withProgram rest).applyReset_sameRegisters, rfl, Nat.lt_succ_self s.powerUp,
    rfl, rfl⟩

/-! ### The parameters -/

/-- R702: nothing a step can do (`step_cases`) changes the parameters. -/
theorem step_cfg {s t : State} (h : step s = .next t) : t.cfg = s.cfg := by
  rcases step_cases h with ⟨-, rfl⟩ | ⟨e, rest, -, ⟨-, rfl⟩ | ⟨-, heff⟩⟩
  · rfl
  · rw [State.applyReset_cfg, State.withProgram_cfg]
  · obtain ⟨hcfg, -⟩ := heff.sameBlockAndHost
    rw [hcfg, State.withProgram_cfg]

/-- R117, R118, R120: what these registers read is a view of the parameters. -/
theorem State.readReg_congr_cfg {s t : State} (h : t.cfg = s.cfg) {r : Reg}
    (hr : r = .cfgN ∨ r = .cfgCap ∨ r = .cfgOrder) : t.readReg r = s.readReg r := by
  rcases hr with rfl | rfl | rfl <;> simp only [State.readReg, h]

/-- Settles O43. -/
theorem parametersNeverChange : Obligations.ParametersNeverChange := by
  intro s t h
  have hcfg := step_cfg h
  exact ⟨hcfg, State.readReg_congr_cfg hcfg (.inl rfl), State.readReg_congr_cfg hcfg (.inr (.inl rfl)), rfl,
    State.readReg_congr_cfg hcfg (.inr (.inr rfl))⟩

end Sys2Proof.Machine

/-! The statements about what the spec leaves open and the model's log settles: the idle framer (R617, log 4), a
record whose DATA has not the given form (R313, log 7), and a byte nothing has written (I-1, log 2). -/

namespace Sys2Proof.Machine

/-! ### No event left -/

/-- R617: with no event left the framer is idle. -/
theorem step_of_program_nil {s : State} (hp : s.program = []) : step s = .next s := by
  rw [step, hp]

/-- Settles O8. -/
theorem idleFramerKeepsItsState : Obligations.IdleFramerKeepsItsState := fun _ => step_of_program_nil

/-! ### A record whose DATA has not the given form -/

/-- R313: DATA[31:8] lies at bits [31:8] of the record. -/
theorem recData_extractLsb'_8_24 (r : Record) : (recData r).extractLsb' 8 24 = r.extractLsb' 8 24 :=
  BitVec.extractLsb'_extractLsb'_of_le (by decide)

theorem decodeRecord_regRead_malformed {r : Record} (hkind : recKind r = 1#2) (hdata : recData r ≠ 0#32) :
    decodeRecord r = .error .malformedData := by
  simp [decodeRecord, hkind, hdata]

theorem decodeRecord_fbWrite_malformed {r : Record} (hkind : recKind r = 2#2)
    (hdata : (recData r).extractLsb' 8 24 ≠ 0#24) : decodeRecord r = .error .malformedData := by
  simp [decodeRecord, hkind, hdata]

theorem decodeRecord_fbRead_malformed {r : Record} (hkind : recKind r = 3#2) (hdata : recData r ≠ 0#32) :
    decodeRecord r = .error .malformedData := by
  simp [decodeRecord, hkind, hdata]

/-- A record that is no instruction's encoding is refused with the decoder's reason, whatever the state. -/
theorem runRecord_of_decode_error {r : Record} {e : DecodeError} (hd : decodeRecord r = .error e) (s : State) :
    runRecord r s = .refused (.malformedRecord e) := by
  rw [runRecord, hd]

/-- Settles O9: the decoder rejects the record, by its KIND. -/
theorem malformedRecordIsRefused : Obligations.MalformedRecordIsRefused := by
  intro s r rest hp hbad
  rw [step_of_program_cons hp]
  refine runRecord_of_decode_error ?_ (s.withProgram rest)
  rcases hbad with ⟨hread | hread, hdata⟩ | ⟨hwrite, hdata⟩
  · exact decodeRecord_regRead_malformed hread hdata
  · exact decodeRecord_fbRead_malformed hread hdata
  · exact decodeRecord_fbWrite_malformed hwrite (recData_extractLsb'_8_24 r ▸ hdata)

/-! ### A byte nothing has written since reset -/

/-- I-1: where nothing is listed as written, the byte is the power-up draw's. -/
theorem State.fbByte_of_read_none {s : State} {i : Nat} (h : Memory.read s.fb i = none) :
    s.fbByte i = Config.fbPowerUp s.powerUp i := by
  rw [State.fbByte, h, Option.getD_none]

/-- Settles O17. -/
theorem unwrittenByteReadsAsFreeValue : Obligations.UnwrittenByteReadsAsFreeValue := by
  refine ⟨fun s i hi hunwritten => ?read, fun p draw i => ⟨rfl, rfl⟩⟩
  case read =>
    rw [exec_fbRead_of_lt hi, State.fbByte_of_read_none hunwritten]
    rfl

end Sys2Proof.Machine
